-- ==== Sys2Proof/Word.lean ====
section
/-! DEFINITION. Bytes, byte strings and blocks (00_scope.md R9). -/

namespace Sys2Proof

/-- An unsigned integer 0..255, bit 7 most significant (R9, R10). -/
abbrev Byte := BitVec 8

/-- A finite sequence of bytes, index 0 first (R9). Lengths are natural numbers. -/
abbrev Bytes := List Byte

/-- Exactly 16 bytes, index 0 first (R9): what an IV register holds and what the primitive answers. -/
abbrev Block := Vector Byte 16

/-- `rep(v, n)`: `n` copies of byte `v` (R9). -/
def rep (v : Byte) (n : Nat) : Bytes := List.replicate n v

end Sys2Proof
end

