-- ==== Sys2Proof/Config.lean ====
section
/-! DEFINITION. What is fixed for a machine but not by the spec: the block primitive and the open parameters
(00_scope.md R7, R8), and the free values that stand for contents the spec leaves unspecified
(93_implementation_defined.md U12 to U16). The fixed parameters of R7 (BLOCK = 16, KEYLENS = 16, 24, 32,
IVLEN = 16, PADMAX = 16) stand as numerals in the rules that use them, as in the spec. -/

namespace Sys2Proof

/-- The block primitive (R8): `enc K B` is `E(K, B)`, `dec K B` is `D(K, B)`. A pure function that always answers
with 16 bytes (P1, P2). It is total on every byte string; CORE presents keys of 16, 24 or 32 bytes and blocks of
16 bytes only (R131), and nothing is assumed about it elsewhere. P3 and P4 are hypotheses of the claims
that need them (DESIGN CHOICE, log 4). -/
structure Primitive where
  /-- `E`, the encryption direction -/
  enc : Bytes → Bytes → Block
  /-- `D`, the decryption direction -/
  dec : Bytes → Bytes → Block
  deriving Inhabited

/-- P3 of R8: decryption undoes encryption, for every valid key and every 16-byte block. -/
def Primitive.Inverts (p : Primitive) : Prop :=
  ∀ K B : Bytes, K.length = 16 ∨ K.length = 24 ∨ K.length = 32 → B.length = 16 →
    (p.dec K (p.enc K B).toList).toList = B

/-- P4 of R8: encryption under a valid key is injective on 16-byte blocks. -/
def Primitive.EncInjective (p : Primitive) : Prop :=
  ∀ K A B : Bytes, K.length = 16 ∨ K.length = 24 ∨ K.length = 32 → A.length = 16 → B.length = 16 →
    p.enc K A = p.enc K B → A = B

namespace Config

/-- The primitive this machine is bound to (R314, R42): open, so every claim about it holds for every primitive. -/
opaque primitive : Primitive

/-- `MAX_MSG_BYTES` (R7, 92_eei_decisions.md D22), at the spec's default: unbounded. It bounds only which messages the
host can present; the claims about steps take any bound as an argument (DESIGN CHOICE, log 5). -/
def maxMsgBytes : Option Nat := none

/-- `LANES` (R7, 92_eei_decisions.md D28), at the spec's default. It bounds how many primitive requests are outstanding and no
result; Machine/Lanes.lean and the claims about it take any number `≥ 1` as an argument (DESIGN CHOICE, log 16). -/
def lanes : Nat := 1

/-- A free 16-byte content. Every free value is applied to the draw counter of State (log 7). -/
opaque freeBlock : Nat → Block

/-- A free length of a register that holds up to 16 bytes. -/
opaque freeShortLen : Nat → Fin 17

/-- A free content of a register that holds up to 16 bytes. -/
def freeShort (n : Nat) : Bytes := (freeBlock n).toList.take (freeShortLen n).val

/-- A free natural number. -/
opaque freeNat : Nat → Nat

/-- A free 5-bit value. -/
opaque freeBits5 : Nat → BitVec 5

/-- A free byte. -/
opaque freeByte : Nat → Byte

/-- A free bit. -/
opaque freeBit : Nat → Bool

end Config
end Sys2Proof
end

