-- ==== Sys2Proof/Syntax.lean ====
section
/-! DEFINITION. The commands (30_encoding.md R98) and what the host presents with one (R93 to R96). -/

namespace Sys2Proof

/-- The five engines, in the order of their `MODE` codes (R90). -/
inductive Mode where
  | ecb | cbc | cfb | ofb | ctr
  deriving DecidableEq, Repr

/-- The three operations, in the order of their `OP` codes (R90). -/
inductive Op where
  | new | enc | dec
  deriving DecidableEq, Repr

/-- One constructor per row of spec/opcode_table.json. A command word carries no operand (R93). -/
inductive Instr where
  | newEcb | newCbc | newCfb | newOfb | newCtr
  | encEcb | encCbc | encCfb | encOfb | encCtr
  | decEcb | decCbc | decCfb | decOfb | decCtr
  deriving DecidableEq, Repr

/-- The command of an operation and a mode (the columns of R98). -/
def Instr.of : Op → Mode → Instr
  | .new, .ecb => .newEcb
  | .new, .cbc => .newCbc
  | .new, .cfb => .newCfb
  | .new, .ofb => .newOfb
  | .new, .ctr => .newCtr
  | .enc, .ecb => .encEcb
  | .enc, .cbc => .encCbc
  | .enc, .cfb => .encCfb
  | .enc, .ofb => .encOfb
  | .enc, .ctr => .encCtr
  | .dec, .ecb => .decEcb
  | .dec, .cbc => .decCbc
  | .dec, .cfb => .decCfb
  | .dec, .ofb => .decOfb
  | .dec, .ctr => .decCtr

/-- The operation of a command (R98). -/
def Instr.op : Instr → Op
  | .newEcb | .newCbc | .newCfb | .newOfb | .newCtr => .new
  | .encEcb | .encCbc | .encCfb | .encOfb | .encCtr => .enc
  | .decEcb | .decCbc | .decCfb | .decOfb | .decCtr => .dec

/-- The engine a command names (R98). -/
def Instr.mode : Instr → Mode
  | .newEcb | .encEcb | .decEcb => .ecb
  | .newCbc | .encCbc | .decCbc => .cbc
  | .newCfb | .encCfb | .decCfb => .cfb
  | .newOfb | .encOfb | .decOfb => .ofb
  | .newCtr | .encCtr | .decCtr => .ctr

/-- One host request: a command word and what the operand ports carry with it (R93 to R96). -/
structure Request where
  /-- the command port CMD -/
  word  : BitVec 8
  /-- KEYIN, any length (R94) -/
  keyIn : Bytes
  /-- IVIN, absent or of any length (R95) -/
  ivIn  : Option Bytes
  /-- DIN, of any length the port carries (R96) -/
  din   : Bytes
  deriving DecidableEq, Repr

end Sys2Proof
end

