-- ==== Sys2Proof/Machine/State.lean ====
section
/-! DEFINITION. The state of CORE (10_state.md R20), the reasons a step can stop, and the state after reset
(10_state.md R41, 70_reset_and_hazards.md R310). -/

namespace Sys2Proof.Machine

/-- A byte space: (offset, byte) pairs, offsets strictly rising. An unlisted offset has NO value (logs 9, 10), so
no entry can equal what an unlisted offset reads as. -/
abbrev Memory := List Host.Cell

/-- `KLEN` (R29): its 2-bit codes 0, 1, 2. Code 3 is reserved and never written, so it is no value here (log 12). -/
inductive KeyLen where
  | k16 | k24 | k32
  deriving DecidableEq, Repr

/-- The fields every context has (R29). -/
structure KeyContext where
  /-- `VALID`, 1 bit -/
  valid : Bool
  /-- `KLEN`, 2 bits -/
  klen  : KeyLen
  /-- `KEY`: the bytes at indices `0 ..< KLEN`; the others hold no value (R21, log 12) -/
  key   : Bytes
  deriving DecidableEq, Repr

/-- A context that has an `IV` (R22): every one but `CTX[ECB]`. -/
structure IvContext extends KeyContext where
  /-- `IV`, 128 bits, byte 0 first -/
  iv : Block
  deriving DecidableEq, Repr

/-- `ST` (R31). -/
inductive Status where
  /-- 0: no command has run since reset -/
  | idle
  /-- 1: a command is running; never seen between commands -/
  | busy
  /-- 2: the last command succeeded -/
  | done
  /-- 3: the last command failed -/
  | error
  deriving DecidableEq, Repr

/-- The named errors (60_exceptions.md R271). The last three codes 5, 8, 9 are results of units and never reach
`ERR` (R135). -/
inductive ErrName where
  | invalidKeyLength
  | invalidIVLength
  | emptyInput
  | invalidCiphertextLength
  | paddingError
  | illegalCommand
  | noEngine
  | padInputLength
  | xorLength
  deriving DecidableEq, Repr

/-- `UTAG` (R36): bit 0 is `Padded`, bit 1 is `Unpadded`. -/
inductive UnpadTag where
  | padded | unpadded
  deriving DecidableEq, Repr

/-- The state. The first part is R20's tuple; the last part is the model's own (log 1). -/
structure State where
  /-- `CTX[ECB]`, which has no IV (R22) -/
  ecb  : KeyContext
  /-- `CTX[CBC]` -/
  cbc  : IvContext
  /-- `CTX[CFB]` -/
  cfb  : IvContext
  /-- `CTX[OFB]` -/
  ofb  : IvContext
  /-- `CTX[CTR]` -/
  ctr  : IvContext
  /-- the latched command word (R30) -/
  cmdr : BitVec 8
  /-- status (R31) -/
  st   : Status
  /-- `ERR` (R31): `none` is code 0 -/
  err  : Option ErrName
  /-- length of the message operand (R32) -/
  ilen : Nat
  /-- length of the result (R32) -/
  olen : Nat
  /-- the message operand (R35) -/
  ibuf : Memory
  /-- the result (R35) -/
  obuf : Memory
  /-- the feedback register (R23) -/
  fb   : Bytes
  /-- the last answer of the primitive (R24) -/
  ks   : Block
  /-- the current input block (R25) -/
  xb   : Bytes
  /-- its length, 5 bits (R25) -/
  xlen : BitVec 5
  /-- the current output block (R26) -/
  yb   : Bytes
  /-- the index of the block being processed (R27) -/
  idx  : Nat
  /-- the number of blocks (R27) -/
  nblk : Nat
  /-- the hidden unpad tag (R36) -/
  utag : UnpadTag
  /-- MODEL: what KEYIN carries for the command being executed (R94) -/
  keyIn : Bytes
  /-- MODEL: what IVIN carries for the command being executed (R95) -/
  ivIn : Option Bytes
  /-- MODEL: what DIN carries for the command being executed (R96) -/
  din  : Bytes
  /-- MODEL: what the host will present, the next request first (log 1) -/
  stream : List Request
  /-- MODEL: how many free values have been drawn (log 7) -/
  draws : Nat
  deriving DecidableEq, Repr

/-- Why the MODEL stops. The spec's errors are no faults: they are next states with `ST = ERROR`. -/
inductive Fault where
  /-- A unit of 40_units.md answered `fail` inside a command. Raised by the block steps; R135 and R279: no command can
  provoke it, and a model that reaches one has a bug. Safe. -/
  | unitFailure (e : ErrName)
  /-- A `MemRead` outside `IBUF[0 ..< ILEN]`. Raised by `State.memRead`; R62: CORE never issues one. Safe. -/
  | readOutsideIbuf (addr n : Nat)
  deriving DecidableEq, Repr

/-- What has no step. -/
inductive Refusal where
  /-- An instruction without a meaning; raised by no arm of `exec`. Safe. -/
  | notModelled (mnemonic : String)
  /-- A message longer than MAX_MSG_BYTES, which the DIN port cannot carry (R61, 93 U31). Raised by `step`. Safe. -/
  | messageNotPresentable
  deriving DecidableEq, Repr

/-- A context right after reset: not valid (R41); the other fields are DESIGN CHOICE zeros (log 6). -/
def KeyContext.reset : KeyContext := { valid := false, klen := .k16, key := rep 0 16 }

/-- A context with IV right after reset (R41; zeros by DESIGN CHOICE, log 6). -/
def IvContext.reset : IvContext := { KeyContext.reset with iv := Vector.replicate 16 0 }

/-- The state after reset (R41, R310): contexts invalid, `ST` idle, `ERR` and `OLEN` zero. Every register the spec leaves
unspecified is zero or empty by DESIGN CHOICE (log 6); the host has presented nothing (log 2). -/
def State.reset : State where
  ecb := KeyContext.reset
  cbc := IvContext.reset
  cfb := IvContext.reset
  ofb := IvContext.reset
  ctr := IvContext.reset
  cmdr := 0
  st := .idle
  err := none
  ilen := 0
  olen := 0
  ibuf := []
  obuf := []
  fb := rep 0 16
  ks := Vector.replicate 16 0
  xb := []
  xlen := 0
  yb := []
  idx := 0
  nblk := 0
  utag := .padded
  keyIn := []
  ivIn := none
  din := []
  stream := []
  draws := 0

end Sys2Proof.Machine
end

