-- ==== Sys2Proof/Machine/Memory.lean ====
section
/-! DEFINITION. Operations on a byte space (20_memory.md R60 to R63): strictly rising offsets, an unlisted offset has
no value (logs 9, 10). -/

namespace Sys2Proof.Machine

/-- The byte at an offset; `none` where nothing has been written. -/
def Memory.read : Memory → Nat → Option Byte
  | [], _ => none
  | (b, v) :: m, a => if a = b then some v else Memory.read m a

/-- Store one byte, keeping the offsets strictly rising. -/
def Memory.write : Memory → Nat → Byte → Memory
  | [], a, v => [(a, v)]
  | (b, w) :: m, a, v =>
    if a < b then (a, v) :: (b, w) :: m
    else if a = b then (a, v) :: m
    else (b, w) :: Memory.write m a v

/-- The `n` bytes at offsets `a ..< a + n`, if every one has a value (R62). -/
def Memory.readBytes (m : Memory) (a : Nat) : Nat → Option Bytes
  | 0 => some []
  | n + 1 =>
    match Memory.read m a, Memory.readBytes m (a + 1) n with
    | some v, some vs => some (v :: vs)
    | _, _ => none

/-- `MemWrite(a, len(v), v)` on a byte space: byte `k` of `v` at offset `a + k`; nothing where `v` is empty (R63). -/
def Memory.writeBytes (m : Memory) (a : Nat) : Bytes → Memory
  | [] => m
  | v :: vs => Memory.writeBytes (Memory.write m a v) (a + 1) vs

/-- The byte space that holds exactly `v` at offsets `a ..< a + len(v)`. -/
def Memory.holding (a : Nat) : Bytes → Memory
  | [] => []
  | v :: vs => (a, v) :: Memory.holding (a + 1) vs

/-- The canonical form: offsets strictly rising. -/
def Memory.wf : Memory → Bool
  | [] => true
  | [_] => true
  | (a, _) :: (b, w) :: m => decide (a < b) && Memory.wf ((b, w) :: m)

end Sys2Proof.Machine
end

