-- ==== Sys2Proof/Machine/Flags.lean ====
section
/-! DEFINITION. Status and error codes (10_state.md R31, 60_exceptions.md R271), the other coded fields, and the result
ports (30_encoding.md R97). CORE has no condition codes (R37). -/

namespace Sys2Proof.Machine

/-- The 2-bit value of `ST` (R31). -/
def Status.code : Status → BitVec 2
  | .idle => 0
  | .busy => 1
  | .done => 2
  | .error => 3

/-- The code of a named error (R271). -/
def ErrName.code : ErrName → BitVec 4
  | .invalidKeyLength => 1
  | .invalidIVLength => 2
  | .emptyInput => 3
  | .invalidCiphertextLength => 4
  | .paddingError => 5
  | .illegalCommand => 6
  | .noEngine => 7
  | .padInputLength => 8
  | .xorLength => 9

/-- The 4-bit value of `ERR` (R31, R271). -/
def errCode : Option ErrName → BitVec 4
  | none => 0
  | some e => e.code

/-- The errors that reach `ERR` (R271): not the three that are results of units only. -/
def ErrName.reportable : ErrName → Bool
  | .paddingError | .padInputLength | .xorLength => false
  | .invalidKeyLength | .invalidIVLength | .emptyInput | .invalidCiphertextLength
  | .illegalCommand | .noEngine => true

/-- The 2-bit `KLEN` code (R29). -/
def KeyLen.code : KeyLen → BitVec 2
  | .k16 => 0
  | .k24 => 1
  | .k32 => 2

/-- `UTAG` as a bit (R36). -/
def UnpadTag.bit : UnpadTag → BitVec 1
  | .padded => 0
  | .unpadded => 1

/-- The tag of a bit (R36). -/
def UnpadTag.ofBool : Bool → UnpadTag
  | false => .padded
  | true => .unpadded

/-- The result port `ST` (R97). -/
def State.stPort (s : State) : BitVec 2 := s.st.code

/-- The result port `ERR` (R97). -/
def State.errPort (s : State) : BitVec 4 := errCode s.err

/-- The result port `DOUT = OBUF[0 ..< OLEN]` (R97). -/
def State.dout (s : State) : Option Bytes := Memory.readBytes s.obuf 0 s.olen

/-- The result of a command (00_scope.md R11). -/
inductive Result where
  | ok (out : Bytes)
  | err (e : ErrName)
  deriving DecidableEq, Repr

/-- The whole result the ports show: `ok(DOUT)` after a success, `err(ERR)` after an error, nothing otherwise (R97). -/
def State.result (s : State) : Option Result :=
  match s.st, s.err with
  | .done, _ => s.dout.map Result.ok
  | .error, some e => some (.err e)
  | .error, none => none
  | .idle, _ => none
  | .busy, _ => none

end Sys2Proof.Machine
end

