-- ==== Sys2Proof/Machine/Units.lean ====
section
/-! DEFINITION. The functional units (40_units.md): pure functions on byte strings. A unit's `fail(name)` is
`.error name`. -/

namespace Sys2Proof.Machine

/-- `int(B)`: the big-endian value, byte 0 most significant (R10, R64). -/
def intOf : Bytes → Nat
  | [] => 0
  | b :: bs => b.toNat * 256 ^ bs.length + intOf bs

/-- `blk(v)`: the 16-byte block of big-endian value `v`, for `v < 2^128` (R10). -/
def blk (v : Nat) : Bytes := (List.range 16).map fun j => BitVec.ofNat 8 (v / 256 ^ (15 - j))

/-- `ceil(L/16)`: the number of blocks of an `L`-byte message (R27). -/
def blockCount (len : Nat) : Nat := (len + 15) / 16

/-- `CHUNK` (R120): block `i` is `buf[16*i ..< min(16*i+16, L)]`. -/
def chunk (buf : Bytes) : List Bytes :=
  (List.range (blockCount buf.length)).map fun i => (buf.drop (16 * i)).take 16

/-- `PAD` (R123): `N = 16 - len(b)` bytes of value `N`, for 1 to 15 bytes. -/
def pad (b : Bytes) : Except ErrName Bytes :=
  if b.length = 0 ∨ 16 ≤ b.length then .error .padInputLength
  else .ok (b ++ rep (BitVec.ofNat 8 (16 - b.length)) (16 - b.length))

/-- `UNPAD` (R124): the last byte claims a pad length `N` in 1..16 and the trailing `N` bytes must all equal it. -/
def unpad (b : Bytes) : Except ErrName Bytes :=
  if b.length ≠ 16 then .error .paddingError
  else
    match b[15]? with
    | none => .error .paddingError
    | some v =>
      if v.toNat < 1 ∨ 16 < v.toNat then .error .paddingError
      else if (b.drop (16 - v.toNat)).all (· == v) then .ok (b.take (16 - v.toNat))
      else .error .paddingError

/-- `UNPAD_OR_RAW` (R125): malformed padding is not fatal, the raw block comes out and the tag says so. -/
def unpadOrRaw (b : Bytes) : Bytes × UnpadTag :=
  match unpad b with
  | .ok x => (x, .padded)
  | .error _ => (b, .unpadded)

/-- The lanes of the XOR combiner (R126): lane `k` is `a[k] ^ b[k]`. -/
def xorBytes (a b : Bytes) : Bytes := List.zipWith (· ^^^ ·) a b

/-- `XOR` (R126): defined on two byte strings of equal non-zero length. -/
def xor (a b : Bytes) : Except ErrName Bytes :=
  if a.length = 0 ∨ b.length = 0 ∨ a.length ≠ b.length then .error .xorLength else .ok (xorBytes a b)

/-- `TRUNC` (R127): the first `n` bytes of a keystream block. -/
def trunc (ks : Block) (n : Nat) : Bytes := ks.toList.take n

/-- The byte-wise increment of R128 from the last byte up: the bytes and the carry out of byte 0. -/
def incCarry : Bytes → Bytes × Nat
  | [] => ([], 1)
  | b :: bs =>
    let r := incCarry bs
    (BitVec.ofNat 8 ((b.toNat + r.2) % 256) :: r.1, (b.toNat + r.2) / 256)

/-- `INC128` (R128): plus one modulo 2^128, the carry out discarded. -/
def inc128 (b : Bytes) : Bytes := (incCarry b).1

/-- The last block of a list of blocks, padded if it is short (R129). -/
def padLast (bs : List Bytes) : Except ErrName (List Bytes) :=
  match bs.getLast? with
  | none => .ok bs
  | some b =>
    if b.length < 16 then
      match pad b with
      | .ok c => .ok (bs.dropLast ++ [c])
      | .error e => .error e
    else .ok bs

/-- `PREP` (R129): the ECB and CBC encryption preprocess. No padding block on an aligned plaintext. -/
def prep (msg : Bytes) : Except ErrName (List Bytes) :=
  if msg.length = 0 then .error .emptyInput else padLast (chunk msg)

end Sys2Proof.Machine
end

