-- ==== Sys2Proof/Machine/Operands.lean ====
section
/-! DEFINITION. The operand forms: the key and IV ports of `NEW` (30_encoding.md R94, R95, 41_construct.md R150), the
message length checks of `ENC` and `DEC` (20_memory.md R67), and the one addressing mode (40_units.md R120). -/

namespace Sys2Proof.Machine

/-- The number of bytes a `KLEN` code stands for (R29). -/
def KeyLen.bytes : KeyLen → Nat
  | .k16 => 16
  | .k24 => 24
  | .k32 => 32

/-- `len(KEYIN) in {16, 24, 32}` (R150). -/
def KeyLen.ofLength (n : Nat) : Option KeyLen :=
  if n = 16 then some .k16 else if n = 24 then some .k24 else if n = 32 then some .k32 else none

/-- The 16 bytes of a byte string, if it has exactly 16. -/
def blockOf (b : Bytes) : Option Block :=
  if h : b.length = 16 then some ⟨⟨b⟩, h⟩ else none

/-- What `NEW.<m>` makes of IVIN. -/
inductive IvOperand where
  /-- the mode has no IV: IVIN is not looked at (R151) -/
  | ignored
  /-- `ivok(IVIN)` -/
  | given (iv : Block)
  /-- absent or not 16 bytes -/
  | wrong
  deriving DecidableEq, Repr

/-- `m != ECB and not ivok(IVIN)`, with `ivok(IVIN) = (IVIN = some(b) and len(b) = 16)` (R150). -/
def ivOperand (m : Mode) (ivIn : Option Bytes) : IvOperand :=
  match m with
  | .ecb => .ignored
  | _ =>
    match ivIn.bind blockOf with
    | some iv => .given iv
    | none => .wrong

/-- The length check of every `ENC` and of `DEC.CFB`, `DEC.OFB`, `DEC.CTR`: the error, if any (R67). -/
def nonEmptyCheck (len : Nat) : Option ErrName := if len = 0 then some .emptyInput else none

/-- `CTCHECK` (R130), the length check of `DEC.ECB` and `DEC.CBC`: the error, if any. -/
def ctCheck (len : Nat) : Option ErrName :=
  if len = 0 then some .emptyInput
  else if len < 16 ∨ len % 16 ≠ 0 then some .invalidCiphertextLength
  else none

/-- The offset of block `i` in either buffer (R66, R120). -/
def blockOffset (i : Nat) : Nat := 16 * i

/-- The length of block `i` of an `len`-byte message (R120). -/
def blockLength (len i : Nat) : Nat := min 16 (len - 16 * i)

end Sys2Proof.Machine
end

