-- ==== Sys2Proof/Machine/Ops.lean ====
section
/-! DEFINITION. The named operations every meaning is made of: context access (10_state.md R29, R33), the phases of a
command (R28), raising an error (60_exceptions.md R285), buffer access (20_memory.md R62, R63), and the block-step
pieces (R23 to R26). -/

namespace Sys2Proof.Machine

/-- The fields every context has, of context `m` (R29). -/
def State.context (s : State) : Mode → KeyContext
  | .ecb => s.ecb
  | .cbc => s.cbc.toKeyContext
  | .cfb => s.cfb.toKeyContext
  | .ofb => s.ofb.toKeyContext
  | .ctr => s.ctr.toKeyContext

/-- `CTX[m].IV`; `CTX[ECB]` has none (R22). -/
def State.iv (s : State) : Mode → Option Block
  | .ecb => none
  | .cbc => some s.cbc.iv
  | .cfb => some s.cfb.iv
  | .ofb => some s.ofb.iv
  | .ctr => some s.ctr.iv

/-- Write the fields every context has, of context `m` only. -/
def State.withContext (s : State) (m : Mode) (c : KeyContext) : State :=
  match m with
  | .ecb => { s with ecb := c }
  | .cbc => { s with cbc := { c with iv := s.cbc.iv } }
  | .cfb => { s with cfb := { c with iv := s.cfb.iv } }
  | .ofb => { s with ofb := { c with iv := s.ofb.iv } }
  | .ctr => { s with ctr := { c with iv := s.ctr.iv } }

/-- Write `CTX[m].IV`; nothing to write for `CTX[ECB]` (R22, R150). -/
def State.withIv (s : State) (m : Mode) (iv : Block) : State :=
  match m with
  | .ecb => s
  | .cbc => { s with cbc := { s.cbc with iv := iv } }
  | .cfb => { s with cfb := { s.cfb with iv := iv } }
  | .ofb => { s with ofb := { s.ofb with iv := iv } }
  | .ctr => { s with ctr := { s.ctr with iv := iv } }

/-- `CTX[m].VALID <- 0`; the other fields keep their values (R157, R285; log 14). -/
def State.invalidate (s : State) (m : Mode) : State :=
  s.withContext m { s.context m with valid := false }

/-- `KEY[0 ..< KLEN]`, the key handed to the primitive (R21, R131). -/
def KeyContext.primKey (c : KeyContext) : Bytes := c.key.take c.klen.bytes

/-- The first line of every command: `ST <- BUSY ; ERR <- 0 ; OLEN <- 0` (R31, R150, R170). With `OLEN = 0` the space
`OBUF[0 ..< OLEN]` holds no byte (R60, 93 U13; log 9). -/
def State.start (s : State) : State :=
  { s with st := .busy, err := none, olen := 0, obuf := [] }

/-- `raise X` (R285), the one way a command fails: `ERR <- code(X)`, `ST <- ERROR`, `OLEN <- 0`, the contents of `OBUF`
become unspecified (log 9). Nothing is saved and control goes nowhere. -/
def State.raise (s : State) (e : ErrName) : State :=
  { s with err := some e, st := .error, olen := 0, obuf := [] }

/-- `OLEN <- n ; ST <- DONE`, the last line of a command that succeeds. There is no return instruction: the next command
overwrites `ST` and `ERR` (R287). -/
def State.succeed (s : State) (n : Nat) : State := { s with olen := n, st := .done }

/-- Acceptance of an `ENC` or `DEC`: `ILEN <- len(DIN)`, `IBUF[0 ..< ILEN] <- DIN` (R96). An unpad tag of an earlier
command loses its meaning (R36; log 8): a free value. -/
def State.acceptMessage (s : State) : State :=
  { s with
    ilen := s.din.length
    ibuf := Memory.holding 0 s.din
    utag := UnpadTag.ofBool (Config.freeBit s.draws)
    draws := s.draws + 1 }

/-- The LOAD phase (R28): `NBLK <- ceil(ILEN/16) ; IDX <- 0 ; FB <- CTX[m].IV (m != ECB)`. -/
def State.load (s : State) (m : Mode) : State :=
  { s with
    nblk := blockCount s.ilen
    idx := 0
    fb := match s.iv m with
      | some iv => iv.toList
      | none => s.fb }

/-- After an `ENC` or `DEC`, `ILEN` and `IBUF` hold nothing a rule promises (93 U12, U14; log 10). -/
def State.dropMessage (s : State) : State :=
  { s with
    ilen := Config.freeNat s.draws
    ibuf := []
    draws := s.draws + 1 }

/-- After a successful `ENC` or `DEC` the block registers hold nothing a rule promises (R23 to R27, 93 U12, U15): free
values (log 7). -/
def State.dropBlocks (s : State) : State :=
  { s with
    fb := Config.freeShort s.draws
    xb := Config.freeShort (s.draws + 1)
    yb := Config.freeShort (s.draws + 2)
    ks := Config.freeBlock (s.draws + 3)
    xlen := Config.freeBits5 s.draws
    idx := Config.freeNat s.draws
    nblk := Config.freeNat (s.draws + 1)
    draws := s.draws + 4 }

/-- `MemRead(addr, n)` (R62): defined when `n ≥ 1` and `addr + n ≤ ILEN`. -/
def State.memRead (s : State) (addr n : Nat) : Except Fault Bytes :=
  if 1 ≤ n ∧ addr + n ≤ s.ilen then
    match Memory.readBytes s.ibuf addr n with
    | some b => .ok b
    | none => .error (.readOutsideIbuf addr n)
  else .error (.readOutsideIbuf addr n)

/-- `MemWrite(addr, len(v), v)` (R63). -/
def State.memWrite (s : State) (addr : Nat) (v : Bytes) : State :=
  { s with obuf := Memory.writeBytes s.obuf addr v }

/-- A unit's failure inside a command is a fault of the model (R135, R279). -/
def unitResult : Except ErrName Bytes → Except Fault Bytes
  | .ok v => .ok v
  | .error e => .error (.unitFailure e)

/-- `XB[0 ..< XLEN] <- v` (R25). -/
def State.latchBlock (s : State) (v : Bytes) : State :=
  { s with xb := v, xlen := BitVec.ofNat 5 v.length }

/-- `XB[0 ..< XLEN]`, the current input block (R25). -/
def State.block (s : State) : Bytes := s.xb.take s.xlen.toNat

/-- Cut block `IDX` of the message into `XB`, `XLEN` (R25, R120). -/
def State.fetchBlock (s : State) : Except Fault State :=
  match s.memRead (blockOffset s.idx) (blockLength s.ilen s.idx) with
  | .ok v => .ok (s.latchBlock v)
  | .error f => .error f

/-- Pad the current block if it is short (R129, R317): afterwards `XLEN = 16`. -/
def State.padBlock (s : State) : Except Fault State :=
  if s.xlen.toNat < 16 then
    match unitResult (pad s.block) with
    | .ok v => .ok (s.latchBlock v)
    | .error f => .error f
  else .ok s

/-- `KS <- E(K, B)` with `K` the key of context `m` (R24, R131). -/
def State.encrypt (s : State) (p : Primitive) (m : Mode) (b : Bytes) : State :=
  { s with ks := p.enc (s.context m).primKey b }

/-- `KS <- D(K, B)` with `K` the key of context `m` (R24, R131). -/
def State.decrypt (s : State) (p : Primitive) (m : Mode) (b : Bytes) : State :=
  { s with ks := p.dec (s.context m).primKey b }

/-- `YB <- y`, written to `OBUF` at `16*IDX` (R26). -/
def State.emit (s : State) (y : Bytes) : State :=
  ({ s with yb := y }).memWrite (blockOffset s.idx) y

/-- The output step of `DEC.ECB` and `DEC.CBC`: the last block first goes through `UNPAD_OR_RAW`, its tag to `UTAG`
(R26, R36, R125, R317; log 15). -/
def State.emitUnpadded (s : State) (y : Bytes) : State :=
  if s.idx + 1 = s.nblk then
    ({ s with utag := (unpadOrRaw y).2 }).emit (unpadOrRaw y).1
  else s.emit y

/-- `FB <- v` (R23). -/
def State.feedback (s : State) (v : Bytes) : State := { s with fb := v }

/-- The BLOCK phase (R28) from `NBLK - IDX` blocks to go: one block step, then `IDX <- IDX + 1`. -/
def blockLoop (blockStep : State → Except Fault State) : Nat → State → Except Fault State
  | 0, s => .ok s
  | n + 1, s =>
    match blockStep s with
    | .ok t => blockLoop blockStep n { t with idx := t.idx + 1 }
    | .error f => .error f

/-- One `ENC` or `DEC` on context `m` (R28): CHECK in the order of R283 (`NoEngine`, then the length check), LOAD, BLOCK,
FINAL. `outLen` is the command's value of `OLEN` read from the state after the last block. -/
def runMessage (m : Mode) (check : Nat → Option ErrName) (blockStep : State → Except Fault State)
    (outLen : State → Nat) (s : State) : Host.Outcome State Fault Refusal :=
  let a := s.start.acceptMessage
  if (a.context m).valid then
    match check a.ilen with
    | some e => .next (a.raise e).dropMessage
    | none =>
      match blockLoop blockStep (blockCount a.ilen) (a.load m) with
      | .ok t => .next (t.succeed (outLen t)).dropMessage.dropBlocks
      | .error f => .fault f
  else .next (a.raise .noEngine).dropMessage

/-- `CTX[m].KLEN`, `CTX[m].KEY` and `CTX[m].VALID <- 1` of a successful `NEW.<m>` (R150). -/
def State.install (s : State) (m : Mode) (kl : KeyLen) : State :=
  s.withContext m { valid := true, klen := kl, key := s.keyIn }

/-- `NEW.<m>` (R150): key length first, then the IV (R156); a failure invalidates context `m` and no other (R157), a
success replaces it (R158). No request goes to the primitive. -/
def State.construct (s : State) (m : Mode) : State :=
  let b := s.start
  match KeyLen.ofLength b.keyIn.length with
  | none => (b.invalidate m).raise .invalidKeyLength
  | some kl =>
    match ivOperand m b.ivIn with
    | .wrong => (b.invalidate m).raise .invalidIVLength
    | .ignored => (b.install m kl).succeed 0
    | .given iv => ((b.install m kl).withIv m iv).succeed 0

end Sys2Proof.Machine
end

