-- ==== Sys2Proof/Machine/Cbc.lean ====
section
/-! DEFINITION. The CBC engine (43_cbc.md). -/

namespace Sys2Proof.Machine

/-- The block step of `ENC.CBC` (R190): `X <- XOR(FB, B_i)`, `C_i <- E(K, X)`, `FB <- C_i`. -/
def encCbcBlock (p : Primitive) (s : State) : Except Fault State := do
  let s ← s.fetchBlock
  let s ← s.padBlock
  let x ← unitResult (xor s.fb s.block)
  let s := s.encrypt p .cbc x
  let s := s.emit s.ks.toList
  return s.feedback s.yb

/-- `ENC.CBC` (R190) over any primitive: `OLEN <- 16*n`. -/
def encCbc (p : Primitive) (s : State) : Host.Outcome State Fault Refusal :=
  runMessage .cbc nonEmptyCheck (encCbcBlock p) (fun t => 16 * t.nblk) s

/-- `ENC.CBC` (R190). -/
def execEncCbc (s : State) : Host.Outcome State Fault Refusal := encCbc Config.primitive s

/-- The block step of `DEC.CBC` (R191): `T <- D(K, C_i)`, `Q_i <- XOR(FB, T)`, the last one unpadded, `FB <- C_i`, the
INPUT block, taken from `XB` (R320). -/
def decCbcBlock (p : Primitive) (s : State) : Except Fault State := do
  let s ← s.fetchBlock
  let s := s.decrypt p .cbc s.block
  let q ← unitResult (xor s.fb s.ks.toList)
  let s := s.emitUnpadded q
  return s.feedback s.block

/-- `DEC.CBC` (R191) over any primitive: `OLEN <- 16*(n-1) + len(U)`. -/
def decCbc (p : Primitive) (s : State) : Host.Outcome State Fault Refusal :=
  runMessage .cbc ctCheck (decCbcBlock p) (fun t => 16 * (t.nblk - 1) + t.yb.length) s

/-- `DEC.CBC` (R191). -/
def execDecCbc (s : State) : Host.Outcome State Fault Refusal := decCbc Config.primitive s

end Sys2Proof.Machine
end

