-- ==== Sys2Proof/Machine/Cfb.lean ====
section
/-! DEFINITION. The CFB engine with full-block feedback (44_cfb.md). Both directions use `E`; nothing is padded. -/

namespace Sys2Proof.Machine

/-- The block step of `ENC.CFB` (R210): `KS <- E(K, FB)`, `C_i <- XOR(P_i, TRUNC(KS, len(P_i)))`, `FB <- C_i`, the
OUTPUT block. -/
def encCfbBlock (p : Primitive) (s : State) : Except Fault State := do
  let s ← s.fetchBlock
  let s := s.encrypt p .cfb s.fb
  let y ← unitResult (xor s.block (trunc s.ks s.block.length))
  let s := s.emit y
  return s.feedback s.yb

/-- `ENC.CFB` (R210) over any primitive: `OLEN <- L`. -/
def encCfb (p : Primitive) (s : State) : Host.Outcome State Fault Refusal :=
  runMessage .cfb nonEmptyCheck (encCfbBlock p) (fun t => t.ilen) s

/-- `ENC.CFB` (R210). -/
def execEncCfb (s : State) : Host.Outcome State Fault Refusal := encCfb Config.primitive s

/-- The block step of `DEC.CFB` (R211): `KS <- E(K, FB)`, `Q_i <- XOR(C_i, TRUNC(KS, len(C_i)))`, `FB <- C_i`, the
INPUT block, taken from `XB` (R320). -/
def decCfbBlock (p : Primitive) (s : State) : Except Fault State := do
  let s ← s.fetchBlock
  let s := s.encrypt p .cfb s.fb
  let y ← unitResult (xor s.block (trunc s.ks s.block.length))
  let s := s.emit y
  return s.feedback s.block

/-- `DEC.CFB` (R211) over any primitive: `OLEN <- L`. Any length `≥ 1` is accepted. -/
def decCfb (p : Primitive) (s : State) : Host.Outcome State Fault Refusal :=
  runMessage .cfb nonEmptyCheck (decCfbBlock p) (fun t => t.ilen) s

/-- `DEC.CFB` (R211). -/
def execDecCfb (s : State) : Host.Outcome State Fault Refusal := decCfb Config.primitive s

end Sys2Proof.Machine
end

