-- ==== Sys2Proof/Machine/Construct.lean ====
section
/-! DEFINITION. Engine construction: `NEW.<m>` (41_construct.md). -/

namespace Sys2Proof.Machine

/-- `NEW.ECB` (R151): IVIN is ignored, whatever it carries. -/
def execNewEcb (s : State) : Host.Outcome State Fault Refusal := .next (s.construct .ecb)

/-- `NEW.CBC` (R152). -/
def execNewCbc (s : State) : Host.Outcome State Fault Refusal := .next (s.construct .cbc)

/-- `NEW.CFB` (R153). -/
def execNewCfb (s : State) : Host.Outcome State Fault Refusal := .next (s.construct .cfb)

/-- `NEW.OFB` (R154). -/
def execNewOfb (s : State) : Host.Outcome State Fault Refusal := .next (s.construct .ofb)

/-- `NEW.CTR` (R155): IVIN is the whole initial counter block. -/
def execNewCtr (s : State) : Host.Outcome State Fault Refusal := .next (s.construct .ctr)

end Sys2Proof.Machine
end

