-- ==== Sys2Proof/Machine/Ctr.lean ====
section
/-! DEFINITION. The CTR engine (46_ctr.md). Both directions use `E`; `FB` is the counter block; nothing is padded
(R255). -/

namespace Sys2Proof.Machine

/-- The block step of `ENC.CTR` (R250): `KS <- E(K, FB)`, `C_i <- XOR(P_i, TRUNC(KS, len(P_i)))`,
`FB <- INC128(FB)`. -/
def encCtrBlock (p : Primitive) (s : State) : Except Fault State := do
  let s ← s.fetchBlock
  let s := s.encrypt p .ctr s.fb
  let y ← unitResult (xor s.block (trunc s.ks s.block.length))
  let s := s.emit y
  return s.feedback (inc128 s.fb)

/-- `ENC.CTR` (R250) over any primitive: `OLEN <- L`. -/
def encCtr (p : Primitive) (s : State) : Host.Outcome State Fault Refusal :=
  runMessage .ctr nonEmptyCheck (encCtrBlock p) (fun t => t.ilen) s

/-- `ENC.CTR` (R250). -/
def execEncCtr (s : State) : Host.Outcome State Fault Refusal := encCtr Config.primitive s

/-- The block step of `DEC.CTR` (R251): the same recurrence, in the encrypt direction of the primitive. -/
def decCtrBlock (p : Primitive) (s : State) : Except Fault State := do
  let s ← s.fetchBlock
  let s := s.encrypt p .ctr s.fb
  let y ← unitResult (xor s.block (trunc s.ks s.block.length))
  let s := s.emit y
  return s.feedback (inc128 s.fb)

/-- `DEC.CTR` (R251) over any primitive: `OLEN <- L`. Any length `≥ 1` is accepted. -/
def decCtr (p : Primitive) (s : State) : Host.Outcome State Fault Refusal :=
  runMessage .ctr nonEmptyCheck (decCtrBlock p) (fun t => t.ilen) s

/-- `DEC.CTR` (R251). -/
def execDecCtr (s : State) : Host.Outcome State Fault Refusal := decCtr Config.primitive s

end Sys2Proof.Machine
end

