-- ==== Sys2Proof/Machine/Ecb.lean ====
section
/-! DEFINITION. The ECB engine (42_ecb.md): no chaining, `FB` is neither read nor written. -/

namespace Sys2Proof.Machine

/-- The block step of `ENC.ECB` (R170): `C_i <- E(K, B_i)`, the short last block padded first. -/
def encEcbBlock (p : Primitive) (s : State) : Except Fault State := do
  let s ← s.fetchBlock
  let s ← s.padBlock
  let s := s.encrypt p .ecb s.block
  return s.emit s.ks.toList

/-- `ENC.ECB` (R170) over any primitive: `OLEN <- 16*n`. -/
def encEcb (p : Primitive) (s : State) : Host.Outcome State Fault Refusal :=
  runMessage .ecb nonEmptyCheck (encEcbBlock p) (fun t => 16 * t.nblk) s

/-- `ENC.ECB` (R170). -/
def execEncEcb (s : State) : Host.Outcome State Fault Refusal := encEcb Config.primitive s

/-- The block step of `DEC.ECB` (R171): `T_i <- D(K, C_i)`, the last one unpadded. -/
def decEcbBlock (p : Primitive) (s : State) : Except Fault State := do
  let s ← s.fetchBlock
  let s := s.decrypt p .ecb s.block
  return s.emitUnpadded s.ks.toList

/-- `DEC.ECB` (R171) over any primitive: `OLEN <- 16*(n-1) + len(U)`. -/
def decEcb (p : Primitive) (s : State) : Host.Outcome State Fault Refusal :=
  runMessage .ecb ctCheck (decEcbBlock p) (fun t => 16 * (t.nblk - 1) + t.yb.length) s

/-- `DEC.ECB` (R171). -/
def execDecEcb (s : State) : Host.Outcome State Fault Refusal := decEcb Config.primitive s

end Sys2Proof.Machine
end

