-- ==== Sys2Proof/Machine/Ofb.lean ====
section
/-! DEFINITION. The OFB engine (45_ofb.md). Both directions use `E`; what is fed back is the whole keystream block. -/

namespace Sys2Proof.Machine

/-- The block step of `ENC.OFB` (R230): `KS <- E(K, FB)`, `C_i <- XOR(P_i, TRUNC(KS, len(P_i)))`, `FB <- KS`. -/
def encOfbBlock (p : Primitive) (s : State) : Except Fault State := do
  let s ← s.fetchBlock
  let s := s.encrypt p .ofb s.fb
  let y ← unitResult (xor s.block (trunc s.ks s.block.length))
  let s := s.emit y
  return s.feedback s.ks.toList

/-- `ENC.OFB` (R230) over any primitive: `OLEN <- L`. -/
def encOfb (p : Primitive) (s : State) : Host.Outcome State Fault Refusal :=
  runMessage .ofb nonEmptyCheck (encOfbBlock p) (fun t => t.ilen) s

/-- `ENC.OFB` (R230). -/
def execEncOfb (s : State) : Host.Outcome State Fault Refusal := encOfb Config.primitive s

/-- The block step of `DEC.OFB` (R231): the same recurrence, in the encrypt direction of the primitive. -/
def decOfbBlock (p : Primitive) (s : State) : Except Fault State := do
  let s ← s.fetchBlock
  let s := s.encrypt p .ofb s.fb
  let y ← unitResult (xor s.block (trunc s.ks s.block.length))
  let s := s.emit y
  return s.feedback s.ks.toList

/-- `DEC.OFB` (R231) over any primitive: `OLEN <- L`. Any length `≥ 1` is accepted. -/
def decOfb (p : Primitive) (s : State) : Host.Outcome State Fault Refusal :=
  runMessage .ofb nonEmptyCheck (decOfbBlock p) (fun t => t.ilen) s

/-- `DEC.OFB` (R231). -/
def execDecOfb (s : State) : Host.Outcome State Fault Refusal := decOfb Config.primitive s

end Sys2Proof.Machine
end

