-- ==== Sys2Proof/Machine/Dispatch.lean ====
section
/-! DEFINITION. One arm per constructor of Instr, each one direct call of that command's meaning. -/

namespace Sys2Proof.Machine

def exec (i : Instr) (s : State) : Host.Outcome State Fault Refusal :=
  match i with
  | .newEcb => Sys2Proof.Machine.execNewEcb s
  | .newCbc => Sys2Proof.Machine.execNewCbc s
  | .newCfb => Sys2Proof.Machine.execNewCfb s
  | .newOfb => Sys2Proof.Machine.execNewOfb s
  | .newCtr => Sys2Proof.Machine.execNewCtr s
  | .encEcb => Sys2Proof.Machine.execEncEcb s
  | .encCbc => Sys2Proof.Machine.execEncCbc s
  | .encCfb => Sys2Proof.Machine.execEncCfb s
  | .encOfb => Sys2Proof.Machine.execEncOfb s
  | .encCtr => Sys2Proof.Machine.execEncCtr s
  | .decEcb => Sys2Proof.Machine.execDecEcb s
  | .decCbc => Sys2Proof.Machine.execDecCbc s
  | .decCfb => Sys2Proof.Machine.execDecCfb s
  | .decOfb => Sys2Proof.Machine.execDecOfb s
  | .decCtr => Sys2Proof.Machine.execDecCtr s

end Sys2Proof.Machine
end

