-- ==== Sys2Proof/Decode.lean ====
section
/-! DEFINITION. The 8-bit command word, format C (30_encoding.md R90, R98, R99): the decoder, total on the 256
words, the encoder, and the listing syntax of R102. -/

namespace Sys2Proof

/-- `RSV = bits[7:6]` (R90). -/
def rsvField (w : BitVec 8) : BitVec 2 := w.extractLsb' 6 2

/-- `OP = bits[5:3]` (R90). -/
def opField (w : BitVec 8) : BitVec 3 := w.extractLsb' 3 3

/-- `MODE = bits[2:0]` (R90). -/
def modeField (w : BitVec 8) : BitVec 3 := w.extractLsb' 0 3

/-- Why a word is no command (R99): a reserved `RSV`, `OP` or `MODE`, looked at in this order. -/
inductive DecodeError where
  | reservedRsv
  | reservedOp
  | reservedMode
  deriving DecidableEq, Repr

/-- The operation of an `OP` code; 000 and 100 to 111 are reserved (R90). -/
def decodeOp (f : BitVec 3) : Option Op :=
  match f.toNat with
  | 1 => some .new
  | 2 => some .enc
  | 3 => some .dec
  | _ => none

/-- The engine of a `MODE` code; 101, 110 and 111 are reserved (R90). -/
def decodeMode (f : BitVec 3) : Option Mode :=
  match f.toNat with
  | 0 => some .ecb
  | 1 => some .cbc
  | 2 => some .cfb
  | 3 => some .ofb
  | 4 => some .ctr
  | _ => none

/-- The decoder of R99. -/
def decode (w : BitVec 8) : Except DecodeError Instr :=
  if rsvField w ≠ 0 then .error .reservedRsv
  else
    match decodeOp (opField w), decodeMode (modeField w) with
    | some op, some m => .ok (Instr.of op m)
    | none, _ => .error .reservedOp
    | some _, none => .error .reservedMode

/-- The `OP` code of an operation (R90). -/
def encodeOp : Op → BitVec 3
  | .new => 0b001#3
  | .enc => 0b010#3
  | .dec => 0b011#3

/-- The `MODE` code of an engine (R90). -/
def encodeMode : Mode → BitVec 3
  | .ecb => 0b000#3
  | .cbc => 0b001#3
  | .cfb => 0b010#3
  | .ofb => 0b011#3
  | .ctr => 0b100#3

/-- The command word: `RSV = 00`, then `OP`, then `MODE` (R90, R98). -/
def encode (i : Instr) : BitVec 8 := 0b00#2 ++ (encodeOp i.op ++ encodeMode i.mode)

/-- The instruction this decoder reads from the opcode table's number `w`. A command is one 8-bit word (R90, R101),
whatever `nbits` says of the row, so a number with bits above the eighth is no command. -/
def decodeTableWord (nbits w : Nat) : Option Instr :=
  if nbits ≤ 8 ∧ w < 256 then (decode (BitVec.ofNat 8 w)).toOption else none

/-- The mnemonic column of R98. -/
def Instr.mnemonic : Instr → String
  | .newEcb => "NEW.ECB"
  | .newCbc => "NEW.CBC"
  | .newCfb => "NEW.CFB"
  | .newOfb => "NEW.OFB"
  | .newCtr => "NEW.CTR"
  | .encEcb => "ENC.ECB"
  | .encCbc => "ENC.CBC"
  | .encCfb => "ENC.CFB"
  | .encOfb => "ENC.OFB"
  | .encCtr => "ENC.CTR"
  | .decEcb => "DEC.ECB"
  | .decCbc => "DEC.CBC"
  | .decCfb => "DEC.CFB"
  | .decOfb => "DEC.OFB"
  | .decCtr => "DEC.CTR"

/-- One line of the listing syntax of R102, with its operand values. There are no pseudo-instructions (R103). -/
inductive ListingLine where
  /-- `NEW.<m> key=<hex> iv=<hex>`; `iv=none`, and the missing `iv=` of `NEW.ECB`, is `none` -/
  | new (m : Mode) (key : Bytes) (iv : Option Bytes)
  /-- `ENC.<m> din=<hex>` -/
  | enc (m : Mode) (din : Bytes)
  /-- `DEC.<m> din=<hex>` -/
  | dec (m : Mode) (din : Bytes)
  /-- `.word <hex byte>` -/
  | word (w : BitVec 8)
  deriving DecidableEq, Repr

/-- The command word and operand ports a line assembles to (R102); a port the line does not name carries nothing. -/
def assemble : ListingLine → Request
  | .new m key iv => { word := encode (Instr.of .new m), keyIn := key, ivIn := iv, din := [] }
  | .enc m din => { word := encode (Instr.of .enc m), keyIn := [], ivIn := none, din := din }
  | .dec m din => { word := encode (Instr.of .dec m), keyIn := [], ivIn := none, din := din }
  | .word w => { word := w, keyIn := [], ivIn := none, din := [] }

end Sys2Proof
end

