-- ==== Sys2Proof/WellFormed.lean ====
section
/-! DEFINITION. What the host can present at all. A command word has no operand field, so every `Instr` is
well-formed; what can be ill-formed is a request, whose message may be longer than the DIN port carries
(20_memory.md R61, 30_encoding.md R96). -/

namespace Sys2Proof

/-- The DIN port of a machine with `MAX_MSG_BYTES = bound` (`none`: unbounded) carries this message (R61, R96). -/
def fitsPort (bound : Option Nat) (msg : Bytes) : Bool :=
  match bound with
  | none => true
  | some n => decide (msg.length ≤ n)

/-- The host can present this request on a machine with `MAX_MSG_BYTES = bound` (R61). -/
def Request.presentable (r : Request) (bound : Option Nat) : Bool := fitsPort bound r.din

end Sys2Proof
end

