-- ==== Sys2Proof/Machine/Fetch.lean ====
section
/-! DEFINITION. Acceptance and completion of a command word (10_state.md R28, R30, 30_encoding.md R99), as operations
`step` calls. -/

namespace Sys2Proof.Machine

/-- The host presents `r` and CORE accepts it: the word is latched in `CMDR` (R30, R75), the operand ports carry `r`'s
operands while the command runs (R72), and the host has `rest` left to present (log 1). -/
def State.accept (s : State) (r : Request) (rest : List Request) : State :=
  { s with
    cmdr := r.word
    keyIn := r.keyIn
    ivIn := r.ivIn
    din := r.din
    stream := rest }

/-- After a command `CMDR` holds nothing a rule promises (93 U12, 92 D30; log 11): a free value. -/
def State.releaseWord (s : State) : State :=
  { s with cmdr := Config.freeByte s.draws, draws := s.draws + 1 }

/-- An illegal word completes at once with `err(IllegalCommand)` and changes no context (R99, R277). -/
def State.illegal (s : State) : State := s.start.raise .illegalCommand

/-- `releaseWord` on the outcome of a command. -/
def completeWord : Host.Outcome State Fault Refusal → Host.Outcome State Fault Refusal
  | .next t => .next t.releaseWord
  | .fault f => .fault f
  | .refused r => .refused r

/-- Run the command latched in `CMDR` with the meanings `run`: decode it (R99), then the command or `IllegalCommand`. -/
def runLatched (run : Instr → State → Host.Outcome State Fault Refusal) (s : State) :
    Host.Outcome State Fault Refusal :=
  match decode s.cmdr with
  | .ok i => run i s
  | .error _ => .next s.illegal

/-- One step with the meanings `run` and `MAX_MSG_BYTES = bound`: with nothing presented CORE idles and keeps all state (R292, R312; log 3); a
request that the ports cannot carry has no step (R61; log 5); any other is accepted and runs to completion (R5). -/
def stepWith (bound : Option Nat) (run : Instr → State → Host.Outcome State Fault Refusal) (s : State) :
    Host.Outcome State Fault Refusal :=
  match s.stream with
  | [] => .next s
  | r :: rest =>
    if r.presentable bound then completeWord (runLatched run (s.accept r rest))
    else .refused .messageNotPresentable

/-- `s` with the host about to present the command word `word`: the next request's word becomes `word`, and where the
host has no request left, one with what the operand ports carry now (log 2). -/
def State.present (s : State) (word : BitVec 8) : State :=
  match s.stream with
  | [] => { s with stream := [{ word := word, keyIn := s.keyIn, ivIn := s.ivIn, din := s.din }] }
  | r :: rest => { s with stream := { r with word := word } :: rest }

end Sys2Proof.Machine
end

