-- ==== Sys2Proof/Machine/Step.lean ====
section
/-! DEFINITION. One step of CORE: one whole command (00_scope.md R5). -/

namespace Sys2Proof.Machine

/-- One step: the next request of the host, run to completion. -/
def step (s : State) : Host.Outcome State Fault Refusal := stepWith Config.maxMsgBytes exec s

/-- `s` with the command word `w` presented next. A command is one 8-bit word (R90), so of a word of `nbits` bits the
low eight stand on the command port. -/
def State.withFetchWord (s : State) (nbits w : Nat) : State :=
  s.present (BitVec.ofNat 8 (w % 2 ^ nbits))

end Sys2Proof.Machine
end

