-- ==== Sys2Proof/Machine/Bound.lean ====
section
/-! DEFINITION. The machine bound to a primitive and a MAX_MSG_BYTES that are given as arguments (00_scope.md R7, R8,
10_state.md R42): what the claims that name a property of the primitive (P3, P4) speak of, and what lets a test run with a primitive of its own.
`exec` is `execWith Config.primitive` (Laws/Machine.lean). -/

namespace Sys2Proof.Machine

/-- The meaning of a command on a machine whose primitive is `p`. -/
def execWith (p : Primitive) : Instr → State → Host.Outcome State Fault Refusal
  | .newEcb => execNewEcb
  | .newCbc => execNewCbc
  | .newCfb => execNewCfb
  | .newOfb => execNewOfb
  | .newCtr => execNewCtr
  | .encEcb => encEcb p
  | .encCbc => encCbc p
  | .encCfb => encCfb p
  | .encOfb => encOfb p
  | .encCtr => encCtr p
  | .decEcb => decEcb p
  | .decCbc => decCbc p
  | .decCfb => decCfb p
  | .decOfb => decOfb p
  | .decCtr => decCtr p

/-- The machine of Core.lean with primitive `p` in place of `Config.primitive` and `MAX_MSG_BYTES = bound`. -/
def coreWith (p : Primitive) (bound : Option Nat) : Host.Core where
  State := State
  Fault := Fault
  Refusal := Refusal
  step := stepWith bound (execWith p)
  reset := State.reset

end Sys2Proof.Machine
end

