-- ==== Sys2Proof/Machine/Transaction.lean ====
section
/-! DEFINITION. CORE as one pure function per command (00_scope.md R5: "a model may be built either as one function per
command or as a block-indexed state machine; the two must agree"). `exec` is the state machine; this file is the other
form, made of the block steps as functions (43_cbc.md R192, 44_cfb.md R212, 45_ofb.md R232, 46_ctr.md R252) and of
contexts that are simply absent while `VALID = 0` (93 U10). -/

namespace Sys2Proof.Machine

/-- `cbc_enc_step(FB, B)` (R192). -/
def cbcEncStep (p : Primitive) (K fb b : Bytes) : Bytes × Bytes :=
  let c := (p.enc K (xorBytes fb b)).toList
  (c, c)

/-- `cbc_dec_step(FB, C)` (R192). -/
def cbcDecStep (p : Primitive) (K fb c : Bytes) : Bytes × Bytes :=
  (xorBytes fb (p.dec K c).toList, c)

/-- `cfb_enc_step(FB, P)` (R212). -/
def cfbEncStep (p : Primitive) (K fb x : Bytes) : Bytes × Bytes :=
  let c := xorBytes x (trunc (p.enc K fb) x.length)
  (c, c)

/-- `cfb_dec_step(FB, C)` (R212). -/
def cfbDecStep (p : Primitive) (K fb c : Bytes) : Bytes × Bytes :=
  (xorBytes c (trunc (p.enc K fb) c.length), c)

/-- `ofb_step(FB, X)` (R232). -/
def ofbStep (p : Primitive) (K fb x : Bytes) : Bytes × Bytes :=
  (xorBytes x (trunc (p.enc K fb) x.length), (p.enc K fb).toList)

/-- `ctr_step(FB, X)` (R252). -/
def ctrStep (p : Primitive) (K fb x : Bytes) : Bytes × Bytes :=
  (xorBytes x (trunc (p.enc K fb) x.length), inc128 fb)

/-- The left fold of a block step over blocks from a feedback value, collecting the output blocks (R192). -/
def chain (f : Bytes → Bytes → Bytes × Bytes) : Bytes → List Bytes → List Bytes
  | _, [] => []
  | fb, x :: xs => (f fb x).1 :: chain f (f fb x).2 xs

/-- The value of `PREP(P)` (R129); `PREP` fails on the empty message only, which no engine presents to it. -/
def prepBlocks (msg : Bytes) : List Bytes :=
  match prep msg with
  | .ok bs => bs
  | .error _ => []

/-- `UNPAD_OR_RAW` on the last block of a list (R171, R191). -/
def unpadLast (bs : List Bytes) : List Bytes :=
  match bs.getLast? with
  | none => []
  | some b => bs.dropLast ++ [(unpadOrRaw b).1]

/-- A constructed engine: its key and, but for ECB where nothing reads it, its IV (R29). -/
structure Engine where
  key : Bytes
  iv  : Bytes
  deriving DecidableEq, Repr

/-- The output blocks of a successful `ENC.<m>` (R170, R190, R210, R230, R250). -/
def encBlocks (p : Primitive) (m : Mode) (e : Engine) (msg : Bytes) : List Bytes :=
  match m with
  | .ecb => (prepBlocks msg).map fun b => (p.enc e.key b).toList
  | .cbc => chain (cbcEncStep p e.key) e.iv (prepBlocks msg)
  | .cfb => chain (cfbEncStep p e.key) e.iv (chunk msg)
  | .ofb => chain (ofbStep p e.key) e.iv (chunk msg)
  | .ctr => chain (ctrStep p e.key) e.iv (chunk msg)

/-- The output blocks of a successful `DEC.<m>` before the last one is unpadded (R171, R191, R211, R231, R251). -/
def rawDecBlocks (p : Primitive) (m : Mode) (e : Engine) (msg : Bytes) : List Bytes :=
  match m with
  | .ecb => (chunk msg).map fun b => (p.dec e.key b).toList
  | .cbc => chain (cbcDecStep p e.key) e.iv (chunk msg)
  | .cfb => chain (cfbDecStep p e.key) e.iv (chunk msg)
  | .ofb => chain (ofbStep p e.key) e.iv (chunk msg)
  | .ctr => chain (ctrStep p e.key) e.iv (chunk msg)

/-- The modes whose decryption unpads its last block (R125). -/
def modeUnpads : Mode → Bool
  | .ecb | .cbc => true
  | .cfb | .ofb | .ctr => false

/-- The output blocks of a successful `DEC.<m>`. -/
def decBlocks (p : Primitive) (m : Mode) (e : Engine) (msg : Bytes) : List Bytes :=
  if modeUnpads m then unpadLast (rawDecBlocks p m e msg) else rawDecBlocks p m e msg

/-- The output of a successful `ENC.<m>`: the concatenated blocks (R11). -/
def encOut (p : Primitive) (m : Mode) (e : Engine) (msg : Bytes) : Bytes := (encBlocks p m e msg).flatten

/-- The output of a successful `DEC.<m>`: the concatenated blocks (R11). -/
def decOut (p : Primitive) (m : Mode) (e : Engine) (msg : Bytes) : Bytes := (decBlocks p m e msg).flatten

/-- The length check of `DEC.<m>` (R67). -/
def decCheck (m : Mode) (len : Nat) : Option ErrName := if modeUnpads m then ctCheck len else nonEmptyCheck len

/-- The engines that have been constructed (R29); `none` is `VALID = 0`. -/
abbrev Engines := Mode → Option Engine

/-- `NEW.<m>` as a function of its operands (R150). -/
def construction (m : Mode) (keyIn : Bytes) (ivIn : Option Bytes) : Except ErrName Engine :=
  match KeyLen.ofLength keyIn.length with
  | none => .error .invalidKeyLength
  | some _ =>
    match ivOperand m ivIn with
    | .wrong => .error .invalidIVLength
    | .ignored => .ok { key := keyIn, iv := [] }
    | .given iv => .ok { key := keyIn, iv := iv.toList }

/-- One command as a function of the engines and the operands: the new engines and the result. -/
def transact (p : Primitive) (r : Request) (c : Engines) : Engines × Result :=
  match decode r.word with
  | .error _ => (c, .err .illegalCommand)
  | .ok i =>
    match i.op with
    | .new =>
      match construction i.mode r.keyIn r.ivIn with
      | .ok e => (fun m => if m = i.mode then some e else c m, .ok [])
      | .error x => (fun m => if m = i.mode then none else c m, .err x)
    | .enc =>
      match c i.mode with
      | none => (c, .err .noEngine)
      | some e =>
        match nonEmptyCheck r.din.length with
        | some x => (c, .err x)
        | none => (c, .ok (encOut p i.mode e r.din))
    | .dec =>
      match c i.mode with
      | none => (c, .err .noEngine)
      | some e =>
        match decCheck i.mode r.din.length with
        | some x => (c, .err x)
        | none => (c, .ok (decOut p i.mode e r.din))

/-- The results of a whole command stream, one per request, from given engines. -/
def transactAll (p : Primitive) : List Request → Engines → Engines
  | [], c => c
  | r :: rs, c => transactAll p rs (transact p r c).1

/-- The engine context `m` of a state stands for, for the rules: the key handed to the primitive (R21) and the IV. -/
def State.engine (s : State) (m : Mode) : Engine where
  key := (s.context m).primKey
  iv := match s.iv m with
    | some iv => iv.toList
    | none => []

/-- The engines a state holds (R29). -/
def State.engines (s : State) : Engines := fun m =>
  if (s.context m).valid then some (s.engine m) else none

end Sys2Proof.Machine
end

