-- ==== Sys2Proof/Machine/Schedule.lean ====
section
/-! DEFINITION. Block-parallel evaluation (20_memory.md R78, 70_reset_and_hazards.md R316): each output block as a
function of its index alone, and the writing of the blocks in any order. Lanes.lean has the machine that
takes `LANES` and the order of the requests (log 16). -/

namespace Sys2Proof.Machine

/-- `keystream_i = E(K, .)` applied `i+1` times to `IV` (R230). -/
def ofbKeystream (p : Primitive) (K iv : Bytes) : Nat → Bytes
  | 0 => (p.enc K iv).toList
  | i + 1 => (p.enc K (ofbKeystream p K iv i)).toList

/-- `counterBlock_i = blk((int(IV) + i) mod 2^128)` (R128, R252). -/
def counterBlock (iv : Bytes) (i : Nat) : Bytes := blk ((intOf iv + i) % 2 ^ 128)

/-- The feedback of block `i` where it is the INPUT block before it: `IV if i = 0 else C_{i-1}` (R193, R213). -/
def inputBefore (iv : Bytes) (blocks : List Bytes) : Nat → Bytes
  | 0 => iv
  | i + 1 => blocks.getD i []

/-- Output block `i` of `ENC.<m>` as a function of `i` alone, for the modes R316 lists: ECB, OFB, CTR. -/
def encBlockAt (p : Primitive) (m : Mode) (e : Engine) (msg : Bytes) (i : Nat) : Option Bytes :=
  match m with
  | .ecb => some (p.enc e.key ((prepBlocks msg).getD i [])).toList
  | .ofb => some (xorBytes ((chunk msg).getD i []) ((ofbKeystream p e.key e.iv i).take ((chunk msg).getD i []).length))
  | .ctr => some (xorBytes ((chunk msg).getD i [])
      (trunc (p.enc e.key (counterBlock e.iv i)) ((chunk msg).getD i []).length))
  | .cbc => none
  | .cfb => none

/-- Raw output block `i` of `DEC.<m>` as a function of `i` alone: every mode (R172, R193, R213, R233, R252). -/
def rawDecBlockAt (p : Primitive) (m : Mode) (e : Engine) (msg : Bytes) (i : Nat) : Bytes :=
  let c := (chunk msg).getD i []
  match m with
  | .ecb => (p.dec e.key c).toList
  | .cbc => xorBytes (inputBefore e.iv (chunk msg) i) (p.dec e.key c).toList
  | .cfb => xorBytes c (trunc (p.enc e.key (inputBefore e.iv (chunk msg) i)) c.length)
  | .ofb => xorBytes c ((ofbKeystream p e.key e.iv i).take c.length)
  | .ctr => xorBytes c (trunc (p.enc e.key (counterBlock e.iv i)) c.length)

/-- Output block `i` of `DEC.<m>`: the last one goes through `UNPAD_OR_RAW` in ECB and CBC (R317). -/
def decBlockAt (p : Primitive) (m : Mode) (e : Engine) (msg : Bytes) (i : Nat) : Bytes :=
  if modeUnpads m ∧ i + 1 = blockCount msg.length then (unpadOrRaw (rawDecBlockAt p m e msg i)).1
  else rawDecBlockAt p m e msg i

/-- `OBUF` after the blocks of `order` have been written, each at its own offset `16*i` (R78). -/
def writeInOrder (f : Nat → Bytes) (order : List Nat) : Memory :=
  order.foldl (fun m i => Memory.writeBytes m (blockOffset i) (f i)) []

end Sys2Proof.Machine
end

