-- ==== Sys2Proof/Machine/Lanes.lean ====
section
/-! DEFINITION. The machine with `LANES` primitive requests in flight (00_scope.md R7, 92_eei_decisions.md D28,
93_implementation_defined.md U35): the BLOCK phase of 10_state.md R28 as a sequence of requests issued and answered, at
most `LANES` of them outstanding, in any order that 70_reset_and_hazards.md R315, R316 permit. `exec` and `step` take the
ascending order with one request outstanding (log 16); this machine takes `LANES` and the order as arguments. -/

namespace Sys2Proof.Machine

/-- One event of a BLOCK phase. -/
inductive LaneEvent where
  /-- CORE sends the primitive the request of block `i` -/
  | issue (i : Nat)
  /-- the primitive answers the request of block `i`, and the block step of block `i` is completed with the answer -/
  | answer (i : Nat)
  deriving DecidableEq, Repr

/-- A request outstanding: the block it belongs to and the feedback value it was formed with (R23). -/
structure LaneRequest where
  idx : Nat
  fb  : Bytes
  deriving DecidableEq, Repr

/-- A BLOCK phase under way. -/
structure Flight where
  /-- the machine; its block registers are those of the block answered last -/
  core : State
  /-- the requests outstanding, oldest first -/
  sent : List LaneRequest
  /-- the blocks answered, each with the feedback it hands on, newest first -/
  fed  : List (Nat × Bytes)
  deriving DecidableEq, Repr

/-- A BLOCK phase that starts in state `s`. -/
def Flight.start (s : State) : Flight := { core := s, sent := [], fed := [] }

/-- The blocks whose request has been issued. -/
def Flight.issued (f : Flight) : List Nat := f.sent.map LaneRequest.idx ++ f.fed.map Prod.fst

/-- The commands whose request `i` cannot be formed before answer `i-1` has arrived: `ENC.CBC` (R193), `ENC.CFB` (R213)
and the keystream chain of OFB in both directions (R233). -/
def chained : Op → Mode → Bool
  | .enc, .cbc => true
  | .enc, .cfb => true
  | .enc, .ofb => true
  | .dec, .ofb => true
  | _, _ => false

/-- What `CTX[m].IV` is to the block with no block before it; ECB has none and reads no feedback (R22, R23). -/
def State.seed (s : State) (m : Mode) : Bytes :=
  match s.iv m with
  | some iv => iv.toList
  | none => []

/-- `FB` before block `i` (the table of R23), by what it is made of: `IV` and an answer that has arrived, `IV` and the
input block before, or `IV` and `i`. `none` while the answer it needs is outstanding (R315). -/
def Flight.feedback (f : Flight) (op : Op) (m : Mode) (i : Nat) : Option Bytes :=
  if m = .ctr then some (counterBlock (f.core.seed m) i)
  else
    match i with
    | 0 => some (f.core.seed m)
    | j + 1 =>
      if m = .ecb then some (f.core.seed m)
      else if chained op m then f.fed.lookup j
      else (f.core.memRead (blockOffset j) 16).toOption

/-- The block step of a command (R170, R171, R190, R191, R210, R211, R230, R231, R250, R251); `NEW` has none (R28). -/
def blockStepOf (p : Primitive) : Op → Mode → State → Except Fault State
  | .new, _ => .ok
  | .enc, .ecb => encEcbBlock p
  | .enc, .cbc => encCbcBlock p
  | .enc, .cfb => encCfbBlock p
  | .enc, .ofb => encOfbBlock p
  | .enc, .ctr => encCtrBlock p
  | .dec, .ecb => decEcbBlock p
  | .dec, .cbc => decCbcBlock p
  | .dec, .cfb => decCfbBlock p
  | .dec, .ofb => decOfbBlock p
  | .dec, .ctr => decCtrBlock p

/-- Issue the request of block `i`: a lane is free, the block is one of the message and not issued before, and its
feedback is there. -/
def Flight.issue (f : Flight) (lanes : Nat) (op : Op) (m : Mode) (i : Nat) : Option Flight :=
  if f.sent.length < lanes ∧ i < f.core.nblk ∧ i ∉ f.issued then
    match f.feedback op m i with
    | some fb => some { f with sent := f.sent ++ [{ idx := i, fb := fb }] }
    | none => none
  else none

/-- The answer to the outstanding request of block `i`: the block step of block `i` with the feedback the request was
formed with. -/
def Flight.answer (f : Flight) (p : Primitive) (op : Op) (m : Mode) (i : Nat) : Option Flight :=
  match f.sent.find? (·.idx == i) with
  | none => none
  | some r =>
    match blockStepOf p op m { f.core with idx := i, fb := r.fb } with
    | .error _ => none
    | .ok t => some { core := t, sent := f.sent.filter (·.idx != i), fed := (i, t.fb) :: f.fed }

/-- One event; `none` where it cannot happen. -/
def Flight.event (f : Flight) (p : Primitive) (lanes : Nat) (op : Op) (m : Mode) : LaneEvent → Option Flight
  | .issue i => f.issue lanes op m i
  | .answer i => f.answer p op m i

/-- The events of `order`, one after the other; `none` where one of them cannot happen. -/
def Flight.run (p : Primitive) (lanes : Nat) (op : Op) (m : Mode) : List LaneEvent → Flight → Option Flight
  | [], f => some f
  | e :: es, f =>
    match f.event p lanes op m e with
    | some g => Flight.run p lanes op m es g
    | none => none

/-- `ENC.<m>` or `DEC.<m>` with `LANES = lanes` and its BLOCK phase in the order `order` (R28): the phases of `runMessage`,
with `OLEN` the total of bytes written. `none` where `order` is not an order of this command, or leaves a block out. -/
def runMessageLanes (p : Primitive) (lanes : Nat) (op : Op) (m : Mode) (check : Nat → Option ErrName)
    (order : List LaneEvent) (s : State) : Option (Host.Outcome State Fault Refusal) :=
  let a := s.start.acceptMessage
  if (a.context m).valid then
    match check a.ilen with
    | some e => some (.next (a.raise e).dropMessage)
    | none =>
      match Flight.run p lanes op m order (Flight.start (a.load m)) with
      | none => none
      | some f =>
        if f.fed.length = f.core.nblk then
          some (.next (f.core.succeed f.core.obuf.length).dropMessage.dropBlocks)
        else none
  else some (.next (a.raise .noEngine).dropMessage)

/-- A command with `LANES = lanes` and its blocks in the order `order`. `NEW` sends no request (R150). -/
def execLanes (p : Primitive) (lanes : Nat) (order : List LaneEvent) (i : Instr) (s : State) :
    Option (Host.Outcome State Fault Refusal) :=
  match i.op with
  | .new => some (.next (s.construct i.mode))
  | .enc => runMessageLanes p lanes .enc i.mode nonEmptyCheck order s
  | .dec => runMessageLanes p lanes .dec i.mode (decCheck i.mode) order s

/-- One step with `MAX_MSG_BYTES = bound`, `LANES = lanes`, and the blocks of its command in the order `order`. -/
def stepLanes (p : Primitive) (bound : Option Nat) (lanes : Nat) (order : List LaneEvent) (s : State) :
    Option (Host.Outcome State Fault Refusal) :=
  match s.stream with
  | [] => some (.next s)
  | r :: rest =>
    if r.presentable bound then
      let a := s.accept r rest
      match decode a.cmdr with
      | .ok i => (execLanes p lanes order i a).map completeWord
      | .error _ => some (completeWord (.next a.illegal))
    else some (.refused .messageNotPresentable)

/-- `o` is an outcome of a step of the machine with `LANES = lanes`, by some order of evaluation. -/
def MayStep (p : Primitive) (bound : Option Nat) (lanes : Nat) (s : State) (o : Host.Outcome State Fault Refusal) : Prop :=
  ∃ order : List LaneEvent, stepLanes p bound lanes order s = some o

end Sys2Proof.Machine
end

