-- ==== Sys2Proof/Safety.lean ====
section
/-! DEFINITION. What a good state is (10_state.md R40, 60_exceptions.md R271, 20_memory.md R60), what a finished command
leaves, and which engines a command stream leaves, in the terms the claims use. -/

namespace Sys2Proof.Machine

/-- The states between two commands. -/
structure State.Inv (s : State) : Prop where
  /-- every context holds exactly `KLEN` key bytes (R21, R29, R40 d) -/
  keyLength : ∀ m, (s.context m).key.length = (s.context m).klen.bytes
  /-- `BUSY` is never observed (R31, 93 U24) -/
  notBusy : s.st ≠ .busy
  /-- `ERR` is 0 exactly when `ST` is not `ERROR` (R31) -/
  errWhenError : s.err = none ↔ s.st ≠ .error
  /-- only the six codes that can reach `ERR` do (R271) -/
  errReportable : ∀ e, s.err = some e → e.reportable = true
  /-- `OBUF` holds `OLEN` bytes, at the offsets `0 ..< OLEN` and no other (R35, R60) -/
  obufHoldsOlen : ∃ out : Bytes, s.obuf = Memory.holding 0 out ∧ s.olen = out.length
  /-- no output after reset and after an error (R32) -/
  noOutput : s.st = .idle ∨ s.st = .error → s.olen = 0
  /-- `OBUF` is in canonical form -/
  obufWf : Memory.wf s.obuf = true
  /-- `IBUF` is in canonical form -/
  ibufWf : Memory.wf s.ibuf = true

/-- The five contexts are as before (R38). -/
structure SameContexts (s t : State) : Prop where
  ecb : t.ecb = s.ecb
  cbc : t.cbc = s.cbc
  cfb : t.cfb = s.cfb
  ofb : t.ofb = s.ofb
  ctr : t.ctr = s.ctr

/-- The latched word, the operand ports and the stream are as before. -/
structure SameHostSide (s t : State) : Prop where
  cmdr : t.cmdr = s.cmdr
  keyIn : t.keyIn = s.keyIn
  ivIn : t.ivIn = s.ivIn
  din : t.din = s.din
  stream : t.stream = s.stream

/-- The block registers are as before (R33). -/
structure SameBlockRegisters (s t : State) : Prop where
  fb : t.fb = s.fb
  ks : t.ks = s.ks
  xb : t.xb = s.xb
  xlen : t.xlen = s.xlen
  yb : t.yb = s.yb
  idx : t.idx = s.idx
  nblk : t.nblk = s.nblk

/-- `t` differs from `s` at most in what a block step may write (R28): `FB`, `KS`, `XB`, `XLEN`, `YB`, `OBUF`, `UTAG`. -/
def OnlyBlockStepWrites (s t : State) : Prop :=
  t = { s with fb := t.fb, ks := t.ks, xb := t.xb, xlen := t.xlen, yb := t.yb, obuf := t.obuf, utag := t.utag }

/-- `t` is what an `ENC` or `DEC` that succeeds with output `out` leaves of `s`: `ST` done, `ERR` 0, `OLEN` and every byte
of `OBUF` given by `out`; no context changed. The block registers, `ILEN`, `IBUF` are promised nothing. -/
structure Completed (s t : State) (out : Bytes) : Prop where
  st : t.st = .done
  err : t.err = none
  olen : t.olen = out.length
  obuf : t.obuf = Memory.holding 0 out
  ibuf : t.ibuf = []
  contexts : SameContexts s t
  hostSide : SameHostSide s t

/-- `t` is what an `ENC` or `DEC` that raises `e` leaves of `s` (R285): `ST` error, `ERR` the code, no output; no context and
no block register changed. -/
structure MessageFailed (s t : State) (e : ErrName) : Prop where
  st : t.st = .error
  err : t.err = some e
  olen : t.olen = 0
  obuf : t.obuf = []
  ibuf : t.ibuf = []
  contexts : SameContexts s t
  blockRegisters : SameBlockRegisters s t
  hostSide : SameHostSide s t

/-- The priority list of R283 below `IllegalCommand`: the first error condition that holds for command `i` in state `s`, read
off the operand ports and `VALID`. -/
def firstError (i : Instr) (s : State) : Option ErrName :=
  match i.op with
  | .new =>
    if s.keyIn.length ≠ 16 ∧ s.keyIn.length ≠ 24 ∧ s.keyIn.length ≠ 32 then some .invalidKeyLength
    else if i.mode ≠ .ecb ∧ s.ivIn.map List.length ≠ some 16 then some .invalidIVLength
    else none
  | .enc =>
    if (s.context i.mode).valid = false then some .noEngine
    else if s.din = [] then some .emptyInput
    else none
  | .dec =>
    if (s.context i.mode).valid = false then some .noEngine
    else if s.din = [] then some .emptyInput
    else if (i.mode = .ecb ∨ i.mode = .cbc) ∧ s.din.length % 16 ≠ 0 then some .invalidCiphertextLength
    else none

/-- The table of R280: which command can report which error. -/
def mayReport (i : Instr) (e : ErrName) : Bool :=
  match i.op, e with
  | .new, .invalidKeyLength => true
  | .new, .invalidIVLength => decide (i.mode ≠ .ecb)
  | .enc, .noEngine => true
  | .enc, .emptyInput => true
  | .dec, .noEngine => true
  | .dec, .emptyInput => true
  | .dec, .invalidCiphertextLength => decide (i.mode = .ecb ∨ i.mode = .cbc)
  | _, _ => false

/-- A word of the host's stream is `NEW.<m>`. -/
def requestIsNew (r : Request) (m : Mode) : Bool :=
  match decode r.word with
  | .ok i => decide (i.op = .new ∧ i.mode = m)
  | .error _ => false

/-- The engine a stream leaves in context `m`, by its last `NEW.<m>` alone: `e` where there is none in the stream, the
engine that `NEW.<m>` constructs where it succeeds, no engine where it fails (R157, R158, R313). -/
def lastNew (m : Mode) : List Request → Option Engine → Option Engine
  | [], e => e
  | r :: rs, e =>
    if requestIsNew r m then lastNew m rs (construction m r.keyIn r.ivIn).toOption else lastNew m rs e

end Sys2Proof.Machine
end

