-- ==== Sys2Proof/Certificates/Slice0/Obligations.lean ====
section
/-! DEFINITION. The statements for the provers, from the numbered rules of spec/. Statements about `exec` and `step` are about
the machine of Core.lean; those about `execWith p` and `stepWith bound (execWith p)` hold for every primitive `p` and every
MAX_MSG_BYTES `bound`. -/

open Sys2Proof Sys2Proof.Machine

/-! ### The command word -/

/-- R98: the fifteen words, each with all eight bits fixed, and the value `8*OP + MODE`. -/
def Obligations.FifteenCommandWords : Prop :=
  (decode 0x08#8 = .ok .newEcb ∧ decode 0x09#8 = .ok .newCbc ∧ decode 0x0A#8 = .ok .newCfb ∧
    decode 0x0B#8 = .ok .newOfb ∧ decode 0x0C#8 = .ok .newCtr ∧
    decode 0x10#8 = .ok .encEcb ∧ decode 0x11#8 = .ok .encCbc ∧ decode 0x12#8 = .ok .encCfb ∧
    decode 0x13#8 = .ok .encOfb ∧ decode 0x14#8 = .ok .encCtr ∧
    decode 0x18#8 = .ok .decEcb ∧ decode 0x19#8 = .ok .decCbc ∧ decode 0x1A#8 = .ok .decCfb ∧
    decode 0x1B#8 = .ok .decOfb ∧ decode 0x1C#8 = .ok .decCtr) ∧
  ∀ i : Instr, (encode i).toNat = 8 * (encodeOp i.op).toNat + (encodeMode i.mode).toNat

/-- Decode and encode agree: a word decodes to a command exactly when it is that command's word. `decodeTableWord` answers a
command exactly when its number is that word and its row has up to eight bits; that it takes a row of fewer than eight bits as a
word with zeros above is the model's choice (log 2: a word has one length, eight bits, and every row of the table has eight). -/
def Obligations.DecodeIffEncode : Prop :=
  (∀ (w : BitVec 8) (i : Instr), decode w = .ok i ↔ w = encode i) ∧
  ∀ (nbits w : Nat) (i : Instr), decodeTableWord nbits w = some i ↔ nbits ≤ 8 ∧ w = (encode i).toNat

/-- R99: decode is total; which words are legal and which command each one is; how many are not; and what an illegal one
does: it reports `IllegalCommand` with `OLEN = 0` and leaves the contexts, the block registers, `ILEN`, `IBUF` and `UTAG`. Of
`OBUF` this statement says nothing: with `OLEN = 0` the model empties it (log 9; IllegalWordNextState has the whole next state), and
`CMDR` is free afterwards (log 11). That `UTAG` survives an illegal word is R99 against R36, the model's reading (log 8). -/
def Obligations.IllegalWordsOnlyReportIllegalCommand : Prop :=
  (∀ w : BitVec 8, (∃ i, decode w = .ok i) ↔
    rsvField w = 0 ∧ (opField w = 1 ∨ opField w = 2 ∨ opField w = 3) ∧ (modeField w).toNat ≤ 4) ∧
  (∀ (w : BitVec 8) (i : Instr), decode w = .ok i → opField w = encodeOp i.op ∧ modeField w = encodeMode i.mode) ∧
  ((List.range 256).filter fun w => decide (decodeTableWord 8 w = none)).length = 241 ∧
  ∀ (s : State) (r : Request) (rest : List Request), s.stream = r :: rest → (∀ i, decode r.word ≠ .ok i) →
    ∃ t, step s = .next t ∧ t.st = .error ∧ t.err = some .illegalCommand ∧ t.olen = 0 ∧
      SameContexts s t ∧ SameBlockRegisters s t ∧ t.ilen = s.ilen ∧ t.ibuf = s.ibuf ∧ t.utag = s.utag

/-- The whole next state of an illegal word. That `OBUF` is empty with `OLEN = 0` and that `CMDR` is free afterwards are the
model's choices (logs 9 and 11). -/
def Obligations.IllegalWordNextState : Prop :=
  ∀ (s : State) (r : Request) (rest : List Request), s.stream = r :: rest → (∀ i, decode r.word ≠ .ok i) →
    step s = .next { s with
      cmdr := Config.freeByte s.draws, draws := s.draws + 1, keyIn := r.keyIn, ivIn := r.ivIn, din := r.din,
      stream := rest, st := .error, err := some .illegalCommand, olen := 0, obuf := [] }

/-! ### One step -/

/-- A step runs the decoded command: the word is latched in `CMDR`, the ports carry the request's operands, `exec` runs, and
`CMDR` is released to a free value (log 11). -/
def Obligations.StepRunsDecodedCommand : Prop :=
  (∀ (s : State) (r : Request) (rest : List Request) (i : Instr), s.stream = r :: rest → decode r.word = .ok i →
    step s = completeWord (exec i { s with
      cmdr := r.word, keyIn := r.keyIn, ivIn := r.ivIn, din := r.din, stream := rest })) ∧
  ∀ t : State, completeWord (.next t) = .next { t with cmdr := Config.freeByte t.draws, draws := t.draws + 1 }

/-- With nothing presented CORE keeps all state (the model's reading of R292 and R312, log 3). -/
def Obligations.StepIdlesWithoutRequest : Prop :=
  ∀ s : State, s.stream = [] → step s = .next s

/-- No step faults: no command provokes a unit failure or a read outside IBUF (R62, R135, R279), whatever the state; and a
step has no outcome only for a message longer than MAX_MSG_BYTES (R61). -/
def Obligations.StepNeverFaults : Prop :=
  ∀ (p : Primitive) (bound : Option Nat) (s : State),
    (∃ t, stepWith bound (execWith p) s = .next t) ∨
    (∃ r rest n, s.stream = r :: rest ∧ bound = some n ∧ n < r.din.length ∧
      stepWith bound (execWith p) s = .refused .messageNotPresentable)

/-- R283: the first error of the priority list, and no other, is what a step reports; without one the command succeeds. The result
ports show it in the codes of R31 and R271: `ST` 2 (DONE) or 3 (ERROR), and `ERR` 0 or the number of the error. -/
def Obligations.FirstErrorIsReported : Prop :=
  ∀ (s : State) (r : Request) (rest : List Request), s.stream = r :: rest →
    ∃ t, step s = .next t ∧
      t.err = (match decode r.word with
        | .error _ => some .illegalCommand
        | .ok i => firstError i (s.accept r rest)) ∧
      t.st = (if t.err = none then .done else .error) ∧
      t.stPort = (if t.err = none then 2 else 3) ∧
      t.errPort = (match t.err with
        | none => 0
        | some .invalidKeyLength => 1
        | some .invalidIVLength => 2
        | some .emptyInput => 3
        | some .invalidCiphertextLength => 4
        | some .paddingError => 5
        | some .illegalCommand => 6
        | some .noEngine => 7
        | some .padInputLength => 8
        | some .xorLength => 9)

/-- R280: the table of which command can report which error; an illegal word reports `IllegalCommand` and nothing else. -/
def Obligations.ErrorTable : Prop :=
  (∀ (i : Instr) (e : ErrName), mayReport i e = true ↔ ∃ s t, exec i s = .next t ∧ t.err = some e) ∧
  ∀ (s t : State) (r : Request) (rest : List Request), s.stream = r :: rest → (∀ i, decode r.word ≠ .ok i) →
    step s = .next t → t.err = some .illegalCommand

/-! ### Construction -/

/-- `NEW.ECB` with a valid key installs `CTX[ECB]`, whatever IVIN carries, and changes nothing else but `ST`, `ERR`,
`OLEN`. That `OBUF` is then empty is the model's choice (log 9); so is that the block registers (log 7) and `UTAG` (log 8) keep what
they held, read from R33, "untouched", where R36 calls `UTAG` unspecified after a `NEW`. -/
def Obligations.NewEcbInstallsEngine : Prop :=
  ∀ (s : State) (kl : KeyLen), s.keyIn.length = kl.bytes →
    exec .newEcb s = .next { s with
      ecb := { valid := true, klen := kl, key := s.keyIn }, st := .done, err := none, olen := 0, obuf := [] }

/-- `NEW.CBC`, `NEW.CFB`, `NEW.OFB`, `NEW.CTR` with a valid key and a 16-byte IV install their context, and change nothing
else but `ST`, `ERR`, `OLEN`. That `OBUF` is then empty is the model's choice (log 9); so is that the block registers (log 7) and `UTAG`
(log 8) keep what they held, read from R33, "untouched", where R36 calls `UTAG` unspecified after a `NEW`. -/
def Obligations.NewInstallsEngineWithIv : Prop :=
  ∀ (s : State) (kl : KeyLen) (iv : Block), s.keyIn.length = kl.bytes → s.ivIn = some iv.toList →
    exec .newCbc s = .next { s with
      cbc := { valid := true, klen := kl, key := s.keyIn, iv := iv }, st := .done, err := none, olen := 0, obuf := [] } ∧
    exec .newCfb s = .next { s with
      cfb := { valid := true, klen := kl, key := s.keyIn, iv := iv }, st := .done, err := none, olen := 0, obuf := [] } ∧
    exec .newOfb s = .next { s with
      ofb := { valid := true, klen := kl, key := s.keyIn, iv := iv }, st := .done, err := none, olen := 0, obuf := [] } ∧
    exec .newCtr s = .next { s with
      ctr := { valid := true, klen := kl, key := s.keyIn, iv := iv }, st := .done, err := none, olen := 0, obuf := [] }

/-- R156, R157: a key of any other length is `InvalidKeyLength`, whatever the IV; it invalidates that context and leaves
every other field and context; that the failing context keeps its key and IV (R285 against 93 U10) and that `OBUF` is empty are
the model's choices (logs 14 and 9); so is that the block registers (log 7) and `UTAG` (log 8) keep what they held, read from R33,
"untouched", where R36 calls `UTAG` unspecified after a `NEW`. -/
def Obligations.NewRejectsBadKeyFirst : Prop :=
  ∀ s : State, s.keyIn.length ≠ 16 → s.keyIn.length ≠ 24 → s.keyIn.length ≠ 32 →
    exec .newEcb s = .next { s with
      ecb := { s.ecb with valid := false }, st := .error, err := some .invalidKeyLength, olen := 0, obuf := [] } ∧
    exec .newCbc s = .next { s with
      cbc := { s.cbc with valid := false }, st := .error, err := some .invalidKeyLength, olen := 0, obuf := [] } ∧
    exec .newCfb s = .next { s with
      cfb := { s.cfb with valid := false }, st := .error, err := some .invalidKeyLength, olen := 0, obuf := [] } ∧
    exec .newOfb s = .next { s with
      ofb := { s.ofb with valid := false }, st := .error, err := some .invalidKeyLength, olen := 0, obuf := [] } ∧
    exec .newCtr s = .next { s with
      ctr := { s.ctr with valid := false }, st := .error, err := some .invalidKeyLength, olen := 0, obuf := [] }

/-- R273, R157: with a valid key, an absent IV or one that is not 16 bytes is `InvalidIVLength` in the four modes that have
an IV. What the failing context keeps (log 14), the empty `OBUF` (log 9), and that the block registers (log 7) and `UTAG` (log 8, R33
against R36) keep what they held are the model's choices, as in NewRejectsBadKeyFirst. -/
def Obligations.NewRejectsBadIv : Prop :=
  ∀ (s : State) (kl : KeyLen), s.keyIn.length = kl.bytes → (∀ b, s.ivIn = some b → b.length ≠ 16) →
    exec .newCbc s = .next { s with
      cbc := { s.cbc with valid := false }, st := .error, err := some .invalidIVLength, olen := 0, obuf := [] } ∧
    exec .newCfb s = .next { s with
      cfb := { s.cfb with valid := false }, st := .error, err := some .invalidIVLength, olen := 0, obuf := [] } ∧
    exec .newOfb s = .next { s with
      ofb := { s.ofb with valid := false }, st := .error, err := some .invalidIVLength, olen := 0, obuf := [] } ∧
    exec .newCtr s = .next { s with
      ctr := { s.ctr with valid := false }, st := .error, err := some .invalidIVLength, olen := 0, obuf := [] }

/-- R93: a port that the table calls ignored has no influence: `NEW` does not look at DIN, `NEW.ECB` not at IVIN, `ENC` and
`DEC` not at KEYIN and IVIN. The next states are equal but for the ignored port itself; that the values the spec leaves open are then
equal too rests on the model's form of a free value, an unknown constant applied to the counter `draws` (logs 7, 8, 10), and on
what it keeps in `OBUF` (log 9). -/
def Obligations.IgnoredPortsDoNotMatter : Prop :=
  ∀ (i : Instr) (s t : State), exec i s = .next t →
    (i.op = .new → ∀ d, exec i { s with din := d } = .next { t with din := d }) ∧
    (i = .newEcb → ∀ x, exec i { s with ivIn := x } = .next { t with ivIn := x }) ∧
    (i.op ≠ .new → ∀ k x, exec i { s with keyIn := k, ivIn := x } = .next { t with keyIn := k, ivIn := x })

/-! ### Encryption and decryption: the result, and what is left alone

In `Completed` and `MessageFailed`, that `OBUF` holds no byte at or beyond `OLEN` (log 9), that `IBUF` is empty afterwards (log 10)
and that a failing command leaves the block registers (log 7) are the model's choices; the other clauses are the rules'. -/

/-- `ENC.ECB` (R170): every block of `PREP(P)` through `E`, concatenated Both buffers
afterwards as logs 9 and 10 choose. -/
def Obligations.EncEcbResult : Prop :=
  ∀ s : State, s.ecb.valid = true → s.din ≠ [] →
    ∃ bs t, prep s.din = .ok bs ∧ exec .encEcb s = .next t ∧ t.olen = 16 * bs.length ∧
      Completed s t (bs.map fun b => (Config.primitive.enc s.ecb.primKey b).toList).flatten

/-- `DEC.ECB` (R171): every block of `CHUNK(C)` through `D`, the last one unpadded or raw, concatenated; the tag in `UTAG` Both buffers
afterwards as logs 9 and 10 choose. -/
def Obligations.DecEcbResult : Prop :=
  ∀ s : State, s.ecb.valid = true → s.din ≠ [] → s.din.length % 16 = 0 →
    ∃ (ts : List Bytes) (last : Bytes) (t : State),
      (chunk s.din).map (fun c => (Config.primitive.dec s.ecb.primKey c).toList) = ts ++ [last] ∧
      exec .decEcb s = .next t ∧ t.utag = (unpadOrRaw last).2 ∧
      Completed s t (ts ++ [(unpadOrRaw last).1]).flatten

/-- `ENC.CBC` (R190, R192): the left fold of `cbc_enc_step` over `PREP(P)` from `FB = IV` Both buffers
afterwards as logs 9 and 10 choose. -/
def Obligations.EncCbcResult : Prop :=
  ∀ s : State, s.cbc.valid = true → s.din ≠ [] →
    ∃ bs t, prep s.din = .ok bs ∧ exec .encCbc s = .next t ∧ t.olen = 16 * bs.length ∧
      Completed s t (chain (cbcEncStep Config.primitive s.cbc.primKey) s.cbc.iv.toList bs).flatten

/-- `DEC.CBC` (R191, R192): the left fold of `cbc_dec_step` over `CHUNK(C)` from `FB = IV`, the last one unpadded or raw; the
tag in `UTAG` Both buffers
afterwards as logs 9 and 10 choose. -/
def Obligations.DecCbcResult : Prop :=
  ∀ s : State, s.cbc.valid = true → s.din ≠ [] → s.din.length % 16 = 0 →
    ∃ (qs : List Bytes) (last : Bytes) (t : State),
      chain (cbcDecStep Config.primitive s.cbc.primKey) s.cbc.iv.toList (chunk s.din) = qs ++ [last] ∧
      exec .decCbc s = .next t ∧ t.utag = (unpadOrRaw last).2 ∧
      Completed s t (qs ++ [(unpadOrRaw last).1]).flatten

/-- `ENC.CFB`, `DEC.CFB` (R210, R211, R212): the left folds of their block steps over `CHUNK`, from `FB = IV`; any length
`≥ 1` is accepted and kept Both buffers
afterwards as logs 9 and 10 choose. -/
def Obligations.CfbResults : Prop :=
  ∀ s : State, s.cfb.valid = true → s.din ≠ [] →
    (∃ t, exec .encCfb s = .next t ∧ t.olen = s.din.length ∧
      Completed s t (chain (cfbEncStep Config.primitive s.cfb.primKey) s.cfb.iv.toList (chunk s.din)).flatten) ∧
    (∃ t, exec .decCfb s = .next t ∧ t.olen = s.din.length ∧
      Completed s t (chain (cfbDecStep Config.primitive s.cfb.primKey) s.cfb.iv.toList (chunk s.din)).flatten)

/-- `ENC.OFB`, `DEC.OFB` (R230, R231, R232): the left fold of `ofb_step` in both directions Both buffers
afterwards as logs 9 and 10 choose. -/
def Obligations.OfbResults : Prop :=
  ∀ s : State, s.ofb.valid = true → s.din ≠ [] →
    (∃ t, exec .encOfb s = .next t ∧ t.olen = s.din.length ∧
      Completed s t (chain (ofbStep Config.primitive s.ofb.primKey) s.ofb.iv.toList (chunk s.din)).flatten) ∧
    (∃ t, exec .decOfb s = .next t ∧ t.olen = s.din.length ∧
      Completed s t (chain (ofbStep Config.primitive s.ofb.primKey) s.ofb.iv.toList (chunk s.din)).flatten)

/-- `ENC.CTR`, `DEC.CTR` (R250, R251, R252): the left fold of `ctr_step` in both directions Both buffers
afterwards as logs 9 and 10 choose. -/
def Obligations.CtrResults : Prop :=
  ∀ s : State, s.ctr.valid = true → s.din ≠ [] →
    (∃ t, exec .encCtr s = .next t ∧ t.olen = s.din.length ∧
      Completed s t (chain (ctrStep Config.primitive s.ctr.primKey) s.ctr.iv.toList (chunk s.din)).flatten) ∧
    (∃ t, exec .decCtr s = .next t ∧ t.olen = s.din.length ∧
      Completed s t (chain (ctrStep Config.primitive s.ctr.primKey) s.ctr.iv.toList (chunk s.din)).flatten)

/-- R278, R285: an `ENC` or `DEC` on an invalid context is `NoEngine`, whatever the message, and leaves every context;
the block registers and both buffers afterwards are as logs 7, 9 and 10 choose. -/
def Obligations.NoEngineFails : Prop :=
  ∀ (i : Instr) (s : State), i.op ≠ .new → (s.context i.mode).valid = false →
    ∃ t, exec i s = .next t ∧ MessageFailed s t .noEngine

/-- R274, R285: a zero-length message on a valid context is `EmptyInput` in every `ENC` and every `DEC`;
the block registers and both buffers afterwards are as logs 7, 9 and 10 choose. -/
def Obligations.EmptyMessageFails : Prop :=
  ∀ (i : Instr) (s : State), i.op ≠ .new → (s.context i.mode).valid = true → s.din = [] →
    ∃ t, exec i s = .next t ∧ MessageFailed s t .emptyInput

/-- R275, R285: a ciphertext of 1 to 15 bytes, or of a length that is no multiple of 16, is `InvalidCiphertextLength` in
`DEC.ECB` and `DEC.CBC`; the block registers and both buffers afterwards are as logs 7, 9 and 10 choose. -/
def Obligations.UnalignedCiphertextFails : Prop :=
  ∀ (i : Instr) (s : State), i = .decEcb ∨ i = .decCbc → (s.context i.mode).valid = true →
    s.din ≠ [] → s.din.length < 16 ∨ s.din.length % 16 ≠ 0 →
    ∃ t, exec i s = .next t ∧ MessageFailed s t .invalidCiphertextLength

/-- What acceptance and LOAD leave, and what one block step does in any state of the BLOCK phase (R23 to R26, R28, R320). The
state after acceptance and LOAD (R28, R96): `ST` BUSY, message, lengths, block count, index 0, `FB` the IV (in ECB unchanged), no output;
`KS`, `XB`, `XLEN`, `YB`, every context and the host's side as before; `UTAG` a free value (log 8; the free values are drawn with the model's own
counter `draws`, log 7); on a non-empty message it is a state the block steps take. A block step, on message `msg` in `IBUF` with a block
still to go and, outside ECB, 16 bytes of feedback: `XB` holds the block and `XLEN` its length, from `PREP` in ECB and CBC encryption (then 16)
and from `CHUNK` elsewhere; the feedback is the output block in CBC and CFB encryption, the INPUT block in CBC and CFB decryption, the whole keystream
block in OFB, the next counter in CTR, and untouched in ECB; `OBUF` gets `YB` at `16*IDX`; nothing else changes. That `DEC.ECB` and
`DEC.CBC` unpad the last block, and write `UTAG`, inside its block step is the model's reading of R26 and R28 (log 15). That
`IBUF` and `OBUF` hold the message and the output and no other byte is the model's choice (logs 10 and 9). -/
def Obligations.BlockStepRegisters : Prop :=
  (∀ (s : State) (m : Mode) (u : State), u = s.start.acceptMessage.load m →
    u.st = .busy ∧ u.stPort = 1 ∧ u.err = none ∧ u.errPort = 0 ∧ u.olen = 0 ∧ u.obuf = [] ∧ u.ilen = s.din.length ∧ u.ibuf = Memory.holding 0 s.din ∧
      u.nblk = (s.din.length + 15) / 16 ∧ u.idx = 0 ∧ (∀ iv, s.iv m = some iv → u.fb = iv.toList) ∧
      (m = .ecb → u.fb = s.fb) ∧ (m ≠ .ecb → u.fb.length = 16) ∧ (s.din ≠ [] → u.idx < blockCount s.din.length) ∧
      u.ks = s.ks ∧ u.xb = s.xb ∧ u.xlen = s.xlen ∧ u.yb = s.yb ∧
      u.utag = UnpadTag.ofBool (Config.freeBit s.draws) ∧ u.draws = s.draws + 1 ∧ SameContexts s u ∧ SameHostSide s u) ∧
  ∀ (p : Primitive) (msg : Bytes) (u : State),
    u.ibuf = Memory.holding 0 msg → u.ilen = msg.length → u.idx < blockCount msg.length →
    (∃ t, encEcbBlock p u = .ok t ∧ OnlyBlockStepWrites u t ∧ (prepBlocks msg)[u.idx]? = some t.block ∧
      t.xb = t.block ∧ t.xlen.toNat = t.block.length ∧ t.xlen = 16 ∧
      t.ks = p.enc u.ecb.primKey t.block ∧ t.yb = t.ks.toList ∧ t.fb = u.fb ∧ t.utag = u.utag ∧
      t.obuf = Memory.writeBytes u.obuf (16 * u.idx) t.yb) ∧
    (∃ t, decEcbBlock p u = .ok t ∧ OnlyBlockStepWrites u t ∧ (chunk msg)[u.idx]? = some t.block ∧
      t.xb = t.block ∧ t.xlen.toNat = t.block.length ∧
      t.ks = p.dec u.ecb.primKey t.block ∧ t.fb = u.fb ∧
      t.yb = (if u.idx + 1 = u.nblk then (unpadOrRaw t.ks.toList).1 else t.ks.toList) ∧
      t.utag = (if u.idx + 1 = u.nblk then (unpadOrRaw t.ks.toList).2 else u.utag) ∧
      t.obuf = Memory.writeBytes u.obuf (16 * u.idx) t.yb) ∧
    (u.fb.length = 16 →
    (∃ t, encCbcBlock p u = .ok t ∧ OnlyBlockStepWrites u t ∧ (prepBlocks msg)[u.idx]? = some t.block ∧
      t.xb = t.block ∧ t.xlen.toNat = t.block.length ∧ t.xlen = 16 ∧
      t.ks = p.enc u.cbc.primKey (xorBytes u.fb t.block) ∧ t.yb = t.ks.toList ∧ t.fb = t.yb ∧ t.utag = u.utag ∧
      t.obuf = Memory.writeBytes u.obuf (16 * u.idx) t.yb) ∧
    (∃ t, decCbcBlock p u = .ok t ∧ OnlyBlockStepWrites u t ∧ (chunk msg)[u.idx]? = some t.block ∧
      t.xb = t.block ∧ t.xlen.toNat = t.block.length ∧
      t.ks = p.dec u.cbc.primKey t.block ∧ t.fb = t.block ∧
      t.yb = (if u.idx + 1 = u.nblk then (unpadOrRaw (xorBytes u.fb t.ks.toList)).1 else xorBytes u.fb t.ks.toList) ∧
      t.utag = (if u.idx + 1 = u.nblk then (unpadOrRaw (xorBytes u.fb t.ks.toList)).2 else u.utag) ∧
      t.obuf = Memory.writeBytes u.obuf (16 * u.idx) t.yb) ∧
    (∃ t, encCfbBlock p u = .ok t ∧ OnlyBlockStepWrites u t ∧ (chunk msg)[u.idx]? = some t.block ∧
      t.xb = t.block ∧ t.xlen.toNat = t.block.length ∧
      t.ks = p.enc u.cfb.primKey u.fb ∧ t.yb = xorBytes t.block (trunc t.ks t.block.length) ∧ t.fb = t.yb ∧ t.utag = u.utag ∧
      t.obuf = Memory.writeBytes u.obuf (16 * u.idx) t.yb) ∧
    (∃ t, decCfbBlock p u = .ok t ∧ OnlyBlockStepWrites u t ∧ (chunk msg)[u.idx]? = some t.block ∧
      t.xb = t.block ∧ t.xlen.toNat = t.block.length ∧
      t.ks = p.enc u.cfb.primKey u.fb ∧ t.yb = xorBytes t.block (trunc t.ks t.block.length) ∧ t.fb = t.block ∧ t.utag = u.utag ∧
      t.obuf = Memory.writeBytes u.obuf (16 * u.idx) t.yb) ∧
    (∃ t, encOfbBlock p u = .ok t ∧ OnlyBlockStepWrites u t ∧ (chunk msg)[u.idx]? = some t.block ∧
      t.xb = t.block ∧ t.xlen.toNat = t.block.length ∧
      t.ks = p.enc u.ofb.primKey u.fb ∧ t.yb = xorBytes t.block (trunc t.ks t.block.length) ∧ t.fb = t.ks.toList ∧ t.utag = u.utag ∧
      t.obuf = Memory.writeBytes u.obuf (16 * u.idx) t.yb) ∧
    (∃ t, decOfbBlock p u = .ok t ∧ OnlyBlockStepWrites u t ∧ (chunk msg)[u.idx]? = some t.block ∧
      t.xb = t.block ∧ t.xlen.toNat = t.block.length ∧
      t.ks = p.enc u.ofb.primKey u.fb ∧ t.yb = xorBytes t.block (trunc t.ks t.block.length) ∧ t.fb = t.ks.toList ∧ t.utag = u.utag ∧
      t.obuf = Memory.writeBytes u.obuf (16 * u.idx) t.yb) ∧
    (∃ t, encCtrBlock p u = .ok t ∧ OnlyBlockStepWrites u t ∧ (chunk msg)[u.idx]? = some t.block ∧
      t.xb = t.block ∧ t.xlen.toNat = t.block.length ∧
      t.ks = p.enc u.ctr.primKey u.fb ∧ t.yb = xorBytes t.block (trunc t.ks t.block.length) ∧ t.fb = inc128 u.fb ∧ t.utag = u.utag ∧
      t.obuf = Memory.writeBytes u.obuf (16 * u.idx) t.yb) ∧
    (∃ t, decCtrBlock p u = .ok t ∧ OnlyBlockStepWrites u t ∧ (chunk msg)[u.idx]? = some t.block ∧
      t.xb = t.block ∧ t.xlen.toNat = t.block.length ∧
      t.ks = p.enc u.ctr.primKey u.fb ∧ t.yb = xorBytes t.block (trunc t.ks t.block.length) ∧ t.fb = inc128 u.fb ∧ t.utag = u.utag ∧
      t.obuf = Memory.writeBytes u.obuf (16 * u.idx) t.yb))

/-! ### The units -/

/-- R121, the laws of `CHUNK` on a non-empty buffer. -/
def Obligations.ChunkLaws : Prop :=
  ∀ buf : Bytes, buf ≠ [] →
    (chunk buf).flatten = buf ∧ (chunk buf).length = (buf.length + 15) / 16 ∧
    (∀ i b, i + 1 < (chunk buf).length → (chunk buf)[i]? = some b → b.length = 16) ∧
    (∃ last, (chunk buf).getLast? = some last ∧ last.length = buf.length - 16 * ((chunk buf).length - 1) ∧
      1 ≤ last.length ∧ last.length ≤ 16 ∧ (last.length = 16 ↔ buf.length % 16 = 0)) ∧
    ∀ b ∈ chunk buf, b ≠ []

/-- R122: chunking a buffer of `16k` bytes gives exactly `k` blocks of 16 bytes, order preserved. -/
def Obligations.ChunkIdempotence : Prop :=
  ∀ (buf : Bytes) (k : Nat), buf.length = 16 * k →
    (chunk buf).length = k ∧ (∀ b ∈ chunk buf, b.length = 16) ∧ (chunk buf).flatten = buf

/-- R132: `unpad(pad(X)) = X` for 1 to 15 bytes; `PAD(UNPAD(b))` is undefined when `UNPAD(b)` is empty. -/
def Obligations.PaddingRoundTrip : Prop :=
  (∀ x : Bytes, 0 < x.length → x.length < 16 → ∃ b, pad x = .ok b ∧ unpad b = .ok x) ∧
  (∃ b, unpad b = .ok [] ∧ pad [] = .error .padInputLength)

/-- R124: `UNPAD` accepts exactly the 16-byte blocks that are some bytes followed by `N` bytes of value `N`, `1 ≤ N ≤ 16`, and
returns those bytes; everything else is `PaddingError`. -/
def Obligations.UnpadAcceptsExactlyPkcs7 : Prop :=
  (∀ b x : Bytes, unpad b = .ok x ↔
    b.length = 16 ∧ ∃ n, 1 ≤ n ∧ n ≤ 16 ∧ b = x ++ rep (BitVec.ofNat 8 n) n) ∧
  ∀ b : Bytes, (∃ x, unpad b = .ok x) ∨ unpad b = .error .paddingError

/-- R129: `PREP` gives `ceil(L/16)` blocks of 16 bytes; an aligned plaintext gets no padding block, an unaligned one gets
`16 - L mod 16` bytes of that value. -/
def Obligations.PrepPadsOnlyUnaligned : Prop :=
  prep [] = .error .emptyInput ∧
  ∀ msg : Bytes, msg ≠ [] → ∃ bs, prep msg = .ok bs ∧ bs.length = (msg.length + 15) / 16 ∧ (∀ b ∈ bs, b.length = 16) ∧
    (msg.length % 16 = 0 → bs.flatten = msg) ∧
    (msg.length % 16 ≠ 0 → bs.flatten =
      msg ++ rep (BitVec.ofNat 8 (16 - msg.length % 16)) (16 - msg.length % 16))

/-- R126: `XOR` is defined exactly on equal non-zero lengths, lane by lane; it commutes and is self-inverse, and `XOR(a, a)` is
zero. -/
def Obligations.XorCombiner : Prop :=
  (∀ a b : Bytes, (∃ c, xor a b = .ok c) ↔ a.length = b.length ∧ a.length ≠ 0) ∧
  (∀ a b : Bytes, (∃ c, xor a b = .ok c) ∨ xor a b = .error .xorLength) ∧
  ∀ a b z : Bytes, xor a b = .ok z →
    z.length = a.length ∧ (∀ (k : Nat) (x y : Byte), a[k]? = some x → b[k]? = some y → z[k]? = some (x ^^^ y)) ∧
    xor b a = .ok z ∧ xor z b = .ok a ∧ xor a a = .ok (rep 0 a.length)

/-- R128: `INC128` is the big-endian increment modulo 2^128, and `INC128` applied `i` times to `IV` is
`blk((int(IV) + i) mod 2^128)`. -/
def Obligations.CounterIncrement : Prop :=
  ∀ b : Bytes, b.length = 16 →
    (inc128 b).length = 16 ∧ intOf (inc128 b) = (intOf b + 1) % 2 ^ 128 ∧
    ∀ i : Nat, inc128^[i] b = blk ((intOf b + i) % 2 ^ 128)

/-- R63: `MemWrite` sets exactly the bytes at its offsets, and keeps the canonical form. -/
def Obligations.MemWriteSetsItsBytes : Prop :=
  ∀ (m : Memory) (a : Nat) (v : Bytes) (k : Nat),
    Memory.read (Memory.writeBytes m a v) k =
      (if a ≤ k ∧ k < a + v.length then v[k - a]? else Memory.read m k) ∧
    (Memory.wf m = true → Memory.wf (Memory.writeBytes m a v) = true)

/-! ### The primitive -/

/-- R131, R40 (a), R297: CORE sends only 16-byte blocks under 16, 24 or 32-byte keys to the primitive: two primitives that
agree there are indistinguishable. -/
def Obligations.PrimitiveSeesOnlyBlocks : Prop :=
  ∀ p q : Primitive,
    (∀ K B : Bytes, K.length = 16 ∨ K.length = 24 ∨ K.length = 32 → B.length = 16 →
      p.enc K B = q.enc K B ∧ p.dec K B = q.dec K B) →
    ∀ (i : Instr) (s : State), s.Inv → execWith p i s = execWith q i s

/-- The direction each command uses (the table of R131): `DEC.ECB` and `DEC.CBC` use `D` and never `E`, every other `ENC` and
`DEC` uses `E` and never `D`, and `NEW` uses neither. -/
def Obligations.PrimitiveDirection : Prop :=
  ∀ (p q : Primitive) (i : Instr) (s : State),
    (i.op = .new → execWith p i s = execWith q i s) ∧
    (i = .decEcb ∨ i = .decCbc → p.dec = q.dec → execWith p i s = execWith q i s) ∧
    (i ≠ .decEcb → i ≠ .decCbc → p.enc = q.enc → execWith p i s = execWith q i s)

/-! ### Laws of the modes, for every primitive -/

/-- R173, for ECB and for CBC: `ENC` on `L ≥ 1` bytes returns `16*ceil(L/16)` bytes, `L` itself when `L mod 16 = 0`, otherwise
`L + (16 - L mod 16)`, at most `L + 15`, always a multiple of 16; `DEC` on an aligned `L` returns between `L - 16` and `L`
bytes. -/
def Obligations.EcbCbcLengths : Prop :=
  ∀ (p : Primitive) (m : Mode) (s : State), m = .ecb ∨ m = .cbc → (s.context m).valid = true → s.din ≠ [] →
    (∃ t out, execWith p (Instr.of .enc m) s = .next t ∧ t.dout = some out ∧
      out.length = 16 * ((s.din.length + 15) / 16) ∧ out.length % 16 = 0 ∧
      (s.din.length % 16 = 0 → out.length = s.din.length) ∧
      (s.din.length % 16 ≠ 0 → out.length = s.din.length + (16 - s.din.length % 16)) ∧
      out.length ≤ s.din.length + 15) ∧
    (s.din.length % 16 = 0 → ∃ t out, execWith p (Instr.of .dec m) s = .next t ∧ t.dout = some out ∧
      s.din.length - 16 ≤ out.length ∧ out.length ≤ s.din.length)

/-- R174: equal plaintext blocks under one key give equal ciphertext blocks, within one message and across commands. -/
def Obligations.EcbDeterminism : Prop :=
  ∀ (p : Primitive) (s s' t t' : State) (bs bs' : List Bytes) (i j : Nat) (b : Bytes),
    s.ecb.valid = true → s'.ecb = s.ecb → prep s.din = .ok bs → prep s'.din = .ok bs' →
    bs[i]? = some b → bs'[j]? = some b →
    execWith p .encEcb s = .next t → execWith p .encEcb s' = .next t' →
    Memory.readBytes t.obuf (16 * i) 16 = some (p.enc s.ecb.primKey b).toList ∧
    Memory.readBytes t.obuf (16 * i) 16 = Memory.readBytes t'.obuf (16 * j) 16

/-- R175: with P3, decryption returns the plaintext if and only if it is unaligned or its last 16 bytes are rejected by
`UNPAD`; otherwise it returns the plaintext without its padding-like tail. -/
def Obligations.EcbRoundTripIff : Prop :=
  ∀ p : Primitive, p.Inverts → ∀ s : State, s.ecb.valid = true → s.ecb.key.length = s.ecb.klen.bytes → s.din ≠ [] →
    ∃ t c, execWith p .encEcb s = .next t ∧ t.dout = some c ∧
      ∀ s' : State, s'.ecb = s.ecb → s'.din = c →
        ∃ t' q, execWith p .decEcb s' = .next t' ∧ t'.st = .done ∧ t'.dout = some q ∧
          (q = s.din ↔ s.din.length % 16 ≠ 0 ∨ unpad (s.din.drop (s.din.length - 16)) = .error .paddingError) ∧
          ∀ x, s.din.length % 16 = 0 → unpad (s.din.drop (s.din.length - 16)) = .ok x →
            q = s.din.take (s.din.length - 16) ++ x

/-- R196: with P3, CBC decryption returns the plaintext if and only if it is unaligned or its last 16 bytes are rejected by
`UNPAD`; otherwise it returns the plaintext without its padding-like tail. -/
def Obligations.CbcRoundTripIff : Prop :=
  ∀ p : Primitive, p.Inverts → ∀ s : State, s.cbc.valid = true → s.cbc.key.length = s.cbc.klen.bytes → s.din ≠ [] →
    ∃ t c, execWith p .encCbc s = .next t ∧ t.dout = some c ∧
      ∀ s' : State, s'.cbc = s.cbc → s'.din = c →
        ∃ t' q, execWith p .decCbc s' = .next t' ∧ t'.st = .done ∧ t'.dout = some q ∧
          (q = s.din ↔ s.din.length % 16 ≠ 0 ∨ unpad (s.din.drop (s.din.length - 16)) = .error .paddingError) ∧
          ∀ x, s.din.length % 16 = 0 → unpad (s.din.drop (s.din.length - 16)) = .ok x →
            q = s.din.take (s.din.length - 16) ++ x

/-- R214: CFB decryption returns every non-empty plaintext, whatever the primitive; both directions keep the length. -/
def Obligations.CfbRoundTrip : Prop :=
  ∀ (p : Primitive) (s : State), s.cfb.valid = true → s.din ≠ [] →
    (∃ t c, execWith p .encCfb s = .next t ∧ t.dout = some c ∧ c.length = s.din.length ∧
      ∀ s' : State, s'.cfb = s.cfb → s'.din = c →
        ∃ t', execWith p .decCfb s' = .next t' ∧ t'.dout = some s.din) ∧
    ∃ t q, execWith p .decCfb s = .next t ∧ t.dout = some q ∧ q.length = s.din.length

/-- R234: OFB decryption returns every non-empty plaintext, whatever the primitive; both directions keep the length. -/
def Obligations.OfbRoundTrip : Prop :=
  ∀ (p : Primitive) (s : State), s.ofb.valid = true → s.din ≠ [] →
    (∃ t c, execWith p .encOfb s = .next t ∧ t.dout = some c ∧ c.length = s.din.length ∧
      ∀ s' : State, s'.ofb = s.ofb → s'.din = c →
        ∃ t', execWith p .decOfb s' = .next t' ∧ t'.dout = some s.din) ∧
    ∃ t q, execWith p .decOfb s = .next t ∧ t.dout = some q ∧ q.length = s.din.length

/-- R254: CTR decryption returns every non-empty plaintext, whatever the primitive; both directions keep the length. -/
def Obligations.CtrRoundTrip : Prop :=
  ∀ (p : Primitive) (s : State), s.ctr.valid = true → s.din ≠ [] →
    (∃ t c, execWith p .encCtr s = .next t ∧ t.dout = some c ∧ c.length = s.din.length ∧
      ∀ s' : State, s'.ctr = s.ctr → s'.din = c →
        ∃ t', execWith p .decCtr s' = .next t' ∧ t'.dout = some s.din) ∧
    ∃ t q, execWith p .decCtr s = .next t ∧ t.dout = some q ∧ q.length = s.din.length

/-- R195: with P4, changing block `i` of the plaintext changes ciphertext blocks `i .. n-1` and no earlier one. -/
def Obligations.CbcDiffusion : Prop :=
  ∀ p : Primitive, p.EncInjective →
    ∀ (s s' : State) (bs bs' : List Bytes) (i : Nat),
      s.cbc.valid = true → s.cbc.key.length = s.cbc.klen.bytes → s'.cbc = s.cbc →
      prep s.din = .ok bs → prep s'.din = .ok bs' → bs'.length = bs.length → i < bs.length →
      (∀ j, j ≠ i → bs'[j]? = bs[j]?) → bs'[i]? ≠ bs[i]? →
      ∃ t t', execWith p .encCbc s = .next t ∧ execWith p .encCbc s' = .next t' ∧
        (∀ j, j < i → Memory.readBytes t'.obuf (16 * j) 16 = Memory.readBytes t.obuf (16 * j) 16) ∧
        ∀ j, i ≤ j → j < bs.length →
          Memory.readBytes t'.obuf (16 * j) 16 ≠ Memory.readBytes t.obuf (16 * j) 16

/-- R191, corner cases: replacing ciphertext block `i` changes output block `i` to `FB ^ D(K, C_i')`, flips in output block
`i+1` exactly the bits in which the two differ, and changes no other output block (before unpadding). -/
def Obligations.CbcCiphertextBlockReplaced : Prop :=
  ∀ (p : Primitive) (e : Engine) (c c' : Bytes) (i : Nat) (x x' : Bytes),
    c ≠ [] → c.length % 16 = 0 → c'.length = c.length → e.iv.length = 16 →
    (chunk c)[i]? = some x → (chunk c')[i]? = some x' → (∀ j, j ≠ i → (chunk c')[j]? = (chunk c)[j]?) →
    (rawDecBlocks p .cbc e c')[i]? =
      some (xorBytes (inputBefore e.iv (chunk c) i) (p.dec e.key x').toList) ∧
    (∀ y, (rawDecBlocks p .cbc e c)[i + 1]? = some y →
      (rawDecBlocks p .cbc e c')[i + 1]? = some (xorBytes y (xorBytes x x'))) ∧
    ∀ j, j ≠ i → j ≠ i + 1 → (rawDecBlocks p .cbc e c')[j]? = (rawDecBlocks p .cbc e c)[j]?

/-- R230, R233, R252: in OFB and CTR the output is the message exclusive-ored with a keystream that does not depend on the
message: `E` applied `i+1` times to `IV`, or `E` of counter block `i`. -/
def Obligations.KeystreamModes : Prop :=
  ∀ (p : Primitive) (d : Op) (s : State), d = .enc ∨ d = .dec → s.din ≠ [] →
    (s.ofb.valid = true → ∃ t, execWith p (Instr.of d .ofb) s = .next t ∧ t.dout =
      some (xorBytes s.din (((List.range (blockCount s.din.length)).map
        (ofbKeystream p s.ofb.primKey s.ofb.iv.toList)).flatten))) ∧
    (s.ctr.valid = true → ∃ t, execWith p (Instr.of d .ctr) s = .next t ∧ t.dout =
      some (xorBytes s.din (((List.range (blockCount s.din.length)).map fun i =>
        (p.enc s.ctr.primKey (counterBlock s.ctr.iv.toList i)).toList).flatten)))

/-- R210, R235: under one key and IV, CFB, OFB and CTR encryption agree on the first 16 output bytes. -/
def Obligations.FirstBlockAgrees : Prop :=
  ∀ (p : Primitive) (s : State), s.cfb.valid = true → s.ofb = s.cfb → s.ctr = s.cfb → s.din ≠ [] →
    ∃ t₁ t₂ t₃ a b c, execWith p .encCfb s = .next t₁ ∧ execWith p .encOfb s = .next t₂ ∧
      execWith p .encCtr s = .next t₃ ∧ t₁.dout = some a ∧ t₂.dout = some b ∧ t₃.dout = some c ∧
      a.take 16 = b.take 16 ∧ b.take 16 = c.take 16

/-! ### Block parallelism -/

/-- R172, R193, R213, R233, R252: where R316 lists the blocks as independent, each output block of the sequential recurrence
is a function of its index alone. -/
def Obligations.IndependentBlocks : Prop :=
  ∀ (p : Primitive) (m : Mode) (e : Engine) (msg : Bytes) (i : Nat),
    msg ≠ [] → (m ≠ .ecb → e.iv.length = 16) → i < blockCount msg.length →
    (∀ y, encBlockAt p m e msg i = some y → (encBlocks p m e msg)[i]? = some y) ∧
    (rawDecBlocks p m e msg)[i]? = some (rawDecBlockAt p m e msg i)

/-- R78, R316: whatever order the independent blocks are computed and written in, `OBUF` is what the command leaves. That `OBUF` then
holds no byte at or beyond `OLEN` is the model's choice (log 9). -/
def Obligations.ScheduleIndependence : Prop :=
  ∀ (p : Primitive) (m : Mode) (s : State) (order : List Nat),
    (s.context m).valid = true → s.din ≠ [] → order.Perm (List.range (blockCount s.din.length)) →
    (∀ f : Nat → Bytes,
      (∀ i, i < blockCount s.din.length → encBlockAt p m (s.engine m) s.din i = some (f i)) →
      ∃ t, execWith p (Instr.of .enc m) s = .next t ∧ t.st = .done ∧ t.obuf = writeInOrder f order) ∧
    (modeUnpads m = true → s.din.length % 16 = 0 →
      ∃ t, execWith p (Instr.of .dec m) s = .next t ∧ t.st = .done ∧
        t.obuf = writeInOrder (decBlockAt p m (s.engine m) s.din) order) ∧
    (modeUnpads m = false →
      ∃ t, execWith p (Instr.of .dec m) s = .next t ∧ t.st = .done ∧
        t.obuf = writeInOrder (decBlockAt p m (s.engine m) s.din) order)

/-! ### Reset, invariants, isolation, refinement -/

/-- R310: the state after reset. -/
def Obligations.ResetState : Prop :=
  (∀ m, (State.reset.context m).valid = false) ∧ State.reset.st = .idle ∧ State.reset.err = none ∧ State.reset.olen = 0 ∧
    State.reset.stPort = 0 ∧ State.reset.errPort = 0

/-- R312: after reset CORE executes nothing until the host presents a command; the first command may be any word, and
anything other than a `NEW.<m>` ends in `IllegalCommand` or `NoEngine`. That the step with nothing presented is a step that keeps the whole state is the
model's reading (log 3). -/
def Obligations.FirstCommandAfterReset : Prop :=
  step State.reset = .next State.reset ∧
  ∀ r : Request, ∃ t, step { State.reset with stream := [r] } = .next t ∧
    ((∀ m, requestIsNew r m = false) →
      t.st = .error ∧ (t.err = some .illegalCommand ∨ t.err = some .noEngine))

/-- The invariant holds after reset; the values of the registers the spec leaves unspecified there are the model's choice (log 6). -/
def Obligations.ResetMeetsInvariant : Prop := State.reset.Inv

/-- Every step keeps the invariant: key lengths (R40 d), `BUSY` never observed (R31), `ERR` zero exactly when `ST` is not
`ERROR` and one of the six reportable codes otherwise (R31, R271), `OBUF` holding exactly `OLEN` bytes from offset 0 (R35), no
output after an error (R32), both buffers in canonical form. That `OBUF` holds nothing beyond `OLEN` and that a key is exactly
`KLEN` bytes of storage are the model's choices (logs 9 and 12). -/
def Obligations.StepKeepsInvariant : Prop :=
  ∀ s t : State, s.Inv → step s = .next t → t.Inv

/-- R32, R61: on a machine with `MAX_MSG_BYTES = n` every step keeps `OLEN ≤ 16*ceil(n/16)`, which is at most `n + 15`. -/
def Obligations.OutputCapacity : Prop :=
  ∀ (p : Primitive) (n : Nat) (s t : State), s.olen ≤ 16 * ((n + 15) / 16) →
    stepWith (some n) (execWith p) s = .next t → t.olen ≤ 16 * ((n + 15) / 16) ∧ t.olen ≤ n + 15

/-- R29, R33, R38, R159: a command changes its own mode's context only, and only a `NEW` changes any. -/
def Obligations.CommandsKeepOtherContexts : Prop :=
  ∀ (i : Instr) (s t : State), exec i s = .next t →
    (∀ m, m ≠ i.mode → t.context m = s.context m ∧ t.iv m = s.iv m) ∧ (i.op ≠ .new → SameContexts s t)

/-- R38: over any run, a context's `VALID`, key, key length and IV do not change until the next `NEW.<m>` of that mode. -/
def Obligations.ContextKeptUntilNextNew : Prop :=
  ∀ (p : Primitive) (bound : Option Nat) (k : Nat) (s t : State) (m : Mode),
    (∀ r ∈ s.stream.take k, requestIsNew r m = false) →
    (coreWith p bound).run k s = .next t →
    t.context m = s.context m ∧ t.iv m = s.iv m

/-- R39: the result of an `ENC` or `DEC` is a function of its context, the command word and DIN only. That the whole of `OBUF` is,
on a failing command and beyond `OLEN` too, is the model's choice: it lists no byte there (log 9). -/
def Obligations.ResultIsFunctionOfContextAndMessage : Prop :=
  ∀ (p : Primitive) (i : Instr) (s₁ s₂ : State), i.op ≠ .new →
    s₁.context i.mode = s₂.context i.mode → s₁.iv i.mode = s₂.iv i.mode → s₁.din = s₂.din →
    ∃ t₁ t₂, execWith p i s₁ = .next t₁ ∧ execWith p i s₂ = .next t₂ ∧
      t₁.st = t₂.st ∧ t₁.err = t₂.err ∧ t₁.olen = t₂.olen ∧ t₁.obuf = t₂.obuf ∧ t₁.result = t₂.result

/-- R5: the block-indexed state machine and the one-function-per-command form agree on every command: each step simulates
`transact` on the engines and shows its result on the ports. -/
def Obligations.StepRefinesTransaction : Prop :=
  ∀ (p : Primitive) (bound : Option Nat) (s : State) (r : Request) (rest : List Request),
    s.stream = r :: rest → r.presentable bound = true →
    ∃ t, stepWith bound (execWith p) s = .next t ∧ t.stream = rest ∧
      t.engines = (transact p r s.engines).1 ∧ t.result = some (transact p r s.engines).2

/-- R313: over any command stream from reset, the engine in each context is the one its last `NEW.<m>` constructed, or none
where there was no `NEW.<m>` or the last one failed. -/
def Obligations.EnginesAreLastConstructed : Prop :=
  ∀ (p : Primitive) (bound : Option Nat) (rs : List Request), (∀ r ∈ rs, r.presentable bound = true) →
    ∃ t, (coreWith p bound).run rs.length { State.reset with stream := rs } = .next t ∧ t.stream = [] ∧
      ∀ m, t.engines m = lastNew m rs none

/-- R39, R294, R313: over any command stream from reset, the result of its last command is a function of that request and of
the last `NEW` of each mode before it; nothing else of the history matters. -/
def Obligations.ResultFixedByLastConstruction : Prop :=
  ∀ (p : Primitive) (bound : Option Nat) (rs : List Request) (r : Request),
    (∀ q ∈ rs ++ [r], q.presentable bound = true) →
    ∃ t, (coreWith p bound).run (rs.length + 1) { State.reset with stream := rs ++ [r] } = .next t ∧
      t.result = some (transact p r fun m => lastNew m rs none).2

/-! ### Requests in flight -/

/-- `LANES` (R7, R78, R316): for any `LANES ≥ 1`, whatever order of requests and answers the machine of Lanes.lean allows, its step
answers exactly what the step of R28's ascending order answers, and some order does answer; so does the machine at `LANES`'s default.
The orders are those of log 16: a block's step is completed, and its output written, when its request is answered, so in OFB the
exclusive-ors come with the answers. That whole next states are equal, the block registers the spec leaves unspecified included, rests on
log 7 (they are the same free values after either), and that `OLEN` is the number of bytes `OBUF` lists on log 9. In every order at most
`LANES` requests are outstanding; in `ENC.CBC`, `ENC.CFB` and OFB at most one, whatever `LANES` is (R193, R213, R233); in every other `ENC` and
`DEC` as many as there are lanes and blocks can be (R253). -/
def Obligations.LanesChangeNoResult : Prop :=
  (∀ (p : Primitive) (bound : Option Nat) (lanes : Nat) (s : State) (o : Host.Outcome State Fault Refusal), 1 ≤ lanes →
    (MayStep p bound lanes s o ↔ o = stepWith bound (execWith p) s)) ∧
  (∀ (s : State) (o : Host.Outcome State Fault Refusal),
    MayStep Config.primitive Config.maxMsgBytes Config.lanes s o ↔ o = step s) ∧
  (∀ (p : Primitive) (lanes : Nat) (op : Op) (m : Mode) (order : List LaneEvent) (s : State) (f : Flight),
    Flight.run p lanes op m order (Flight.start s) = some f →
    f.sent.length ≤ lanes ∧ (chained op m = true → f.sent.length ≤ 1)) ∧
  ∀ (p : Primitive) (lanes : Nat) (op : Op) (m : Mode) (s : State), chained op m = false →
    ∃ order f, Flight.run p lanes op m order (Flight.start (s.start.acceptMessage.load m)) = some f ∧
      f.sent.length = min lanes (blockCount s.din.length)
end

