-- ==== Sys2Proof/Laws/Memory.lean ====
section
/-! SUPPORT. The laws of a byte space: read after write, the canonical form, and writing at the end of what it holds. -/

namespace Sys2Proof.Machine

@[simp] theorem Memory.read_nil (a : Nat) : Memory.read [] a = none := rfl

@[simp] theorem Memory.writeBytes_nil (m : Memory) (a : Nat) : Memory.writeBytes m a [] = m := rfl

@[simp] theorem Memory.holding_nil (a : Nat) : Memory.holding a [] = [] := rfl

/-- A byte just written is what is read, and every other offset reads as before. -/
theorem Memory.read_write (m : Memory) (a b : Nat) (v : Byte) :
    Memory.read (Memory.write m a v) b = if b = a then some v else Memory.read m b := by
  induction m with
  | nil => simp [Memory.write, Memory.read]
  | cons c m ih =>
    obtain ⟨k, w⟩ := c
    by_cases hlt : a < k
    · simp [Memory.write, Memory.read, hlt]
    · by_cases heq : a = k
      · subst heq
        by_cases h : b = a <;> simp [Memory.write, Memory.read, h]
      · by_cases h : b = k
        · subst h
          have h' : ¬ b = a := fun e => heq e.symm
          simp [Memory.write, Memory.read, hlt, heq, h']
        · simp [Memory.write, Memory.read, hlt, heq, h, ih]

/-- `Memory.wf` from a first cell on. -/
theorem Memory.wf_cons (a : Nat) (v : Byte) (m : Memory) :
    Memory.wf ((a, v) :: m) = true ↔ (∀ c ∈ m.head?, a < c.1) ∧ Memory.wf m = true := by
  cases m with
  | nil => simp [Memory.wf]
  | cons c m => obtain ⟨b, w⟩ := c; simp [Memory.wf]

/-- The first offset after a write is the written one or the first one before. -/
theorem Memory.head_write (m : Memory) (a k : Nat) (v : Byte) (hk : k < a) (h : ∀ c ∈ m.head?, k < c.1) :
    ∀ c ∈ (Memory.write m a v).head?, k < c.1 := by
  cases m with
  | nil => simp [Memory.write, hk]
  | cons c m =>
    obtain ⟨b, w⟩ := c
    have hb : k < b := by simpa using h
    by_cases h1 : a < b
    · simp [Memory.write, h1, hk]
    · by_cases h2 : a = b
      · simp [Memory.write, h2, hb]
      · simp [Memory.write, h1, h2, hb]

/-- A write keeps the canonical form. -/
theorem Memory.wf_write (m : Memory) (a : Nat) (v : Byte) (h : Memory.wf m = true) :
    Memory.wf (Memory.write m a v) = true := by
  induction m with
  | nil => rfl
  | cons c m ih =>
    obtain ⟨k, w⟩ := c
    obtain ⟨hhead, htail⟩ := (Memory.wf_cons k w m).1 h
    by_cases hlt : a < k
    · simp only [Memory.write, hlt, if_true]
      exact (Memory.wf_cons _ _ _).2 ⟨by simpa using hlt, h⟩
    · by_cases heq : a = k
      · subst heq
        simp only [Memory.write, Nat.lt_irrefl, if_false, if_true]
        exact (Memory.wf_cons _ _ _).2 ⟨hhead, htail⟩
      · simp only [Memory.write, hlt, heq, if_false]
        exact (Memory.wf_cons _ _ _).2 ⟨Memory.head_write m a k v (by omega) hhead, ih htail⟩

/-- `MemWrite` keeps the canonical form. -/
theorem Memory.wf_writeBytes (v : Bytes) (m : Memory) (a : Nat) (h : Memory.wf m = true) :
    Memory.wf (Memory.writeBytes m a v) = true := by
  induction v generalizing m a with
  | nil => exact h
  | cons b v ih => exact ih _ _ (Memory.wf_write m a b h)

/-- What a space that holds exactly `v` from `a` on reads as. -/
theorem Memory.read_holding (v : Bytes) (a b : Nat) :
    Memory.read (Memory.holding a v) b = if b < a then none else v[b - a]? := by
  induction v generalizing a with
  | nil => simp [Memory.holding]
  | cons x v ih =>
    by_cases h : b = a
    · simp [Memory.holding, Memory.read, h]
    · rw [Memory.holding, Memory.read, if_neg h, ih]
      by_cases hlt : b < a
      · rw [if_pos hlt, if_pos (Nat.lt_succ_of_lt hlt)]
      · have h1 : ¬ b < a + 1 := by omega
        rw [if_neg hlt, if_neg h1, show b - a = (b - (a + 1)) + 1 by omega, List.getElem?_cons_succ]

/-- A space that holds exactly a byte string is in canonical form. -/
theorem Memory.wf_holding (v : Bytes) (a : Nat) : Memory.wf (Memory.holding a v) = true := by
  induction v generalizing a with
  | nil => rfl
  | cons x v ih =>
    refine (Memory.wf_cons _ _ _).2 ⟨?_, ih (a + 1)⟩
    cases v <;> simp [Memory.holding]

/-- Writing right after what a space holds adds to it. -/
theorem Memory.write_holding (v : Bytes) (a : Nat) (x : Byte) :
    Memory.write (Memory.holding a v) (a + v.length) x = Memory.holding a (v ++ [x]) := by
  induction v generalizing a with
  | nil => simp [Memory.holding, Memory.write]
  | cons y v ih =>
    have h1 : ¬ a + (y :: v).length < a := by omega
    have h2 : ¬ a + (y :: v).length = a := by simp
    have h3 : a + (y :: v).length = (a + 1) + v.length := by simp; omega
    simp only [Memory.holding, Memory.write, h1, h2, if_false, List.cons_append]
    rw [h3, ih]

/-- Writing a block right after what a space holds adds the block to it. -/
theorem Memory.writeBytes_holding (w v : Bytes) (a : Nat) :
    Memory.writeBytes (Memory.holding a v) (a + v.length) w = Memory.holding a (v ++ w) := by
  induction w generalizing v with
  | nil => simp
  | cons x w ih =>
    have h := ih (v ++ [x])
    rw [List.length_append, List.length_singleton, ← Nat.add_assoc, List.append_assoc] at h
    rw [Memory.writeBytes, Memory.write_holding, h, List.singleton_append]

/-- Reading a range of what a space holds gives the bytes at that range. -/
theorem Memory.readBytes_holding (n : Nat) (v : Bytes) (a b : Nat) (h : a + n ≤ v.length) :
    Memory.readBytes (Memory.holding b v) (b + a) n = some ((v.drop a).take n) := by
  induction n generalizing a with
  | zero => simp [Memory.readBytes]
  | succ n ih =>
    have hlt : a < v.length := by omega
    have hread : Memory.read (Memory.holding b v) (b + a) = some v[a] := by
      rw [Memory.read_holding]
      simp [hlt]
    have hrec := ih (a + 1) (by omega)
    rw [Memory.readBytes, hread, show b + a + 1 = b + (a + 1) by omega, hrec]
    rw [List.drop_eq_getElem_cons hlt, List.take_succ_cons]

/-- Reading all of what a space holds. -/
@[simp] theorem Memory.readBytes_holding_all (v : Bytes) :
    Memory.readBytes (Memory.holding 0 v) 0 v.length = some v := by
  have h := Memory.readBytes_holding v.length v 0 0 (by omega)
  simpa using h

/-- Below its first offset a byte space in canonical form holds nothing. -/
theorem Memory.read_none_of_lt (m : Memory) (a b : Nat) (v : Byte) (h : Memory.wf ((b, v) :: m) = true) (hab : a < b) :
    Memory.read ((b, v) :: m) a = none := by
  induction m generalizing b v with
  | nil => simp [Memory.read]; omega
  | cons c m ih =>
    obtain ⟨c, w⟩ := c
    rw [Memory.read, if_neg (by omega)]
    simp [Memory.wf] at h
    exact ih c w h.2 (by omega)

/-- Two byte spaces in canonical form that read alike are equal. -/
theorem Memory.ext_read (m n : Memory) (hm : Memory.wf m = true) (hn : Memory.wf n = true)
    (h : ∀ a, Memory.read m a = Memory.read n a) : m = n := by
  induction m generalizing n with
  | nil =>
    cases n with
    | nil => rfl
    | cons c n => obtain ⟨c, w⟩ := c; have := h c; simp [Memory.read] at this
  | cons c m ih =>
    obtain ⟨c, w⟩ := c
    cases n with
    | nil => have := h c; simp [Memory.read] at this
    | cons d n =>
      obtain ⟨d, x⟩ := d
      have hcd : c = d := by
        rcases Nat.lt_trichotomy c d with hlt | he | hgt
        · have := h c; rw [Memory.read_none_of_lt n c d x hn hlt] at this; simp [Memory.read] at this
        · exact he
        · have := h d; rw [Memory.read_none_of_lt m d c w hm hgt] at this; simp [Memory.read] at this
      subst hcd
      have hw : w = x := by have := h c; simpa [Memory.read] using this
      subst hw
      have hm' := (Memory.wf_cons _ _ _).1 hm
      have hn' := (Memory.wf_cons _ _ _).1 hn
      congr 1
      refine ih n hm'.2 hn'.2 ?_
      intro a
      by_cases hac : a = c
      · subst hac
        have e1 : Memory.read m a = none := by
          cases m with
          | nil => rfl
          | cons y m => obtain ⟨y, z⟩ := y; exact Memory.read_none_of_lt _ _ _ _ hm'.2 (by simpa using hm'.1)
        have e2 : Memory.read n a = none := by
          cases n with
          | nil => rfl
          | cons y n => obtain ⟨y, z⟩ := y; exact Memory.read_none_of_lt _ _ _ _ hn'.2 (by simpa using hn'.1)
        rw [e1, e2]
      · have := h a; simpa [Memory.read, hac] using this

end Sys2Proof.Machine
end

