-- ==== Sys2Proof/Laws/State.lean ====
section
/-! SUPPORT. One lemma per field per update of the state, each true by unfolding that update once. -/

namespace Sys2Proof.Machine

/-! `State.start` -/

@[simp] theorem State.start_ecb (s : State) : (s.start).ecb = s.ecb := rfl
@[simp] theorem State.start_cbc (s : State) : (s.start).cbc = s.cbc := rfl
@[simp] theorem State.start_cfb (s : State) : (s.start).cfb = s.cfb := rfl
@[simp] theorem State.start_ofb (s : State) : (s.start).ofb = s.ofb := rfl
@[simp] theorem State.start_ctr (s : State) : (s.start).ctr = s.ctr := rfl
@[simp] theorem State.start_cmdr (s : State) : (s.start).cmdr = s.cmdr := rfl
@[simp] theorem State.start_st (s : State) : (s.start).st = .busy := rfl
@[simp] theorem State.start_err (s : State) : (s.start).err = none := rfl
@[simp] theorem State.start_ilen (s : State) : (s.start).ilen = s.ilen := rfl
@[simp] theorem State.start_olen (s : State) : (s.start).olen = 0 := rfl
@[simp] theorem State.start_ibuf (s : State) : (s.start).ibuf = s.ibuf := rfl
@[simp] theorem State.start_obuf (s : State) : (s.start).obuf = [] := rfl
@[simp] theorem State.start_fb (s : State) : (s.start).fb = s.fb := rfl
@[simp] theorem State.start_ks (s : State) : (s.start).ks = s.ks := rfl
@[simp] theorem State.start_xb (s : State) : (s.start).xb = s.xb := rfl
@[simp] theorem State.start_xlen (s : State) : (s.start).xlen = s.xlen := rfl
@[simp] theorem State.start_yb (s : State) : (s.start).yb = s.yb := rfl
@[simp] theorem State.start_idx (s : State) : (s.start).idx = s.idx := rfl
@[simp] theorem State.start_nblk (s : State) : (s.start).nblk = s.nblk := rfl
@[simp] theorem State.start_utag (s : State) : (s.start).utag = s.utag := rfl
@[simp] theorem State.start_keyIn (s : State) : (s.start).keyIn = s.keyIn := rfl
@[simp] theorem State.start_ivIn (s : State) : (s.start).ivIn = s.ivIn := rfl
@[simp] theorem State.start_din (s : State) : (s.start).din = s.din := rfl
@[simp] theorem State.start_stream (s : State) : (s.start).stream = s.stream := rfl
@[simp] theorem State.start_draws (s : State) : (s.start).draws = s.draws := rfl
@[simp] theorem State.start_context (s : State) (k : Mode) : (s.start).context k = s.context k := by cases k <;> rfl
@[simp] theorem State.start_iv (s : State) (k : Mode) : (s.start).iv k = s.iv k := by cases k <;> rfl

/-! `State.raise` -/

@[simp] theorem State.raise_ecb (s : State) (e : ErrName) : (s.raise e).ecb = s.ecb := rfl
@[simp] theorem State.raise_cbc (s : State) (e : ErrName) : (s.raise e).cbc = s.cbc := rfl
@[simp] theorem State.raise_cfb (s : State) (e : ErrName) : (s.raise e).cfb = s.cfb := rfl
@[simp] theorem State.raise_ofb (s : State) (e : ErrName) : (s.raise e).ofb = s.ofb := rfl
@[simp] theorem State.raise_ctr (s : State) (e : ErrName) : (s.raise e).ctr = s.ctr := rfl
@[simp] theorem State.raise_cmdr (s : State) (e : ErrName) : (s.raise e).cmdr = s.cmdr := rfl
@[simp] theorem State.raise_st (s : State) (e : ErrName) : (s.raise e).st = .error := rfl
@[simp] theorem State.raise_err (s : State) (e : ErrName) : (s.raise e).err = some e := rfl
@[simp] theorem State.raise_ilen (s : State) (e : ErrName) : (s.raise e).ilen = s.ilen := rfl
@[simp] theorem State.raise_olen (s : State) (e : ErrName) : (s.raise e).olen = 0 := rfl
@[simp] theorem State.raise_ibuf (s : State) (e : ErrName) : (s.raise e).ibuf = s.ibuf := rfl
@[simp] theorem State.raise_obuf (s : State) (e : ErrName) : (s.raise e).obuf = [] := rfl
@[simp] theorem State.raise_fb (s : State) (e : ErrName) : (s.raise e).fb = s.fb := rfl
@[simp] theorem State.raise_ks (s : State) (e : ErrName) : (s.raise e).ks = s.ks := rfl
@[simp] theorem State.raise_xb (s : State) (e : ErrName) : (s.raise e).xb = s.xb := rfl
@[simp] theorem State.raise_xlen (s : State) (e : ErrName) : (s.raise e).xlen = s.xlen := rfl
@[simp] theorem State.raise_yb (s : State) (e : ErrName) : (s.raise e).yb = s.yb := rfl
@[simp] theorem State.raise_idx (s : State) (e : ErrName) : (s.raise e).idx = s.idx := rfl
@[simp] theorem State.raise_nblk (s : State) (e : ErrName) : (s.raise e).nblk = s.nblk := rfl
@[simp] theorem State.raise_utag (s : State) (e : ErrName) : (s.raise e).utag = s.utag := rfl
@[simp] theorem State.raise_keyIn (s : State) (e : ErrName) : (s.raise e).keyIn = s.keyIn := rfl
@[simp] theorem State.raise_ivIn (s : State) (e : ErrName) : (s.raise e).ivIn = s.ivIn := rfl
@[simp] theorem State.raise_din (s : State) (e : ErrName) : (s.raise e).din = s.din := rfl
@[simp] theorem State.raise_stream (s : State) (e : ErrName) : (s.raise e).stream = s.stream := rfl
@[simp] theorem State.raise_draws (s : State) (e : ErrName) : (s.raise e).draws = s.draws := rfl
@[simp] theorem State.raise_context (s : State) (e : ErrName) (k : Mode) : (s.raise e).context k = s.context k := by cases k <;> rfl
@[simp] theorem State.raise_iv (s : State) (e : ErrName) (k : Mode) : (s.raise e).iv k = s.iv k := by cases k <;> rfl

/-! `State.succeed` -/

@[simp] theorem State.succeed_ecb (s : State) (n : Nat) : (s.succeed n).ecb = s.ecb := rfl
@[simp] theorem State.succeed_cbc (s : State) (n : Nat) : (s.succeed n).cbc = s.cbc := rfl
@[simp] theorem State.succeed_cfb (s : State) (n : Nat) : (s.succeed n).cfb = s.cfb := rfl
@[simp] theorem State.succeed_ofb (s : State) (n : Nat) : (s.succeed n).ofb = s.ofb := rfl
@[simp] theorem State.succeed_ctr (s : State) (n : Nat) : (s.succeed n).ctr = s.ctr := rfl
@[simp] theorem State.succeed_cmdr (s : State) (n : Nat) : (s.succeed n).cmdr = s.cmdr := rfl
@[simp] theorem State.succeed_st (s : State) (n : Nat) : (s.succeed n).st = .done := rfl
@[simp] theorem State.succeed_err (s : State) (n : Nat) : (s.succeed n).err = s.err := rfl
@[simp] theorem State.succeed_ilen (s : State) (n : Nat) : (s.succeed n).ilen = s.ilen := rfl
@[simp] theorem State.succeed_olen (s : State) (n : Nat) : (s.succeed n).olen = n := rfl
@[simp] theorem State.succeed_ibuf (s : State) (n : Nat) : (s.succeed n).ibuf = s.ibuf := rfl
@[simp] theorem State.succeed_obuf (s : State) (n : Nat) : (s.succeed n).obuf = s.obuf := rfl
@[simp] theorem State.succeed_fb (s : State) (n : Nat) : (s.succeed n).fb = s.fb := rfl
@[simp] theorem State.succeed_ks (s : State) (n : Nat) : (s.succeed n).ks = s.ks := rfl
@[simp] theorem State.succeed_xb (s : State) (n : Nat) : (s.succeed n).xb = s.xb := rfl
@[simp] theorem State.succeed_xlen (s : State) (n : Nat) : (s.succeed n).xlen = s.xlen := rfl
@[simp] theorem State.succeed_yb (s : State) (n : Nat) : (s.succeed n).yb = s.yb := rfl
@[simp] theorem State.succeed_idx (s : State) (n : Nat) : (s.succeed n).idx = s.idx := rfl
@[simp] theorem State.succeed_nblk (s : State) (n : Nat) : (s.succeed n).nblk = s.nblk := rfl
@[simp] theorem State.succeed_utag (s : State) (n : Nat) : (s.succeed n).utag = s.utag := rfl
@[simp] theorem State.succeed_keyIn (s : State) (n : Nat) : (s.succeed n).keyIn = s.keyIn := rfl
@[simp] theorem State.succeed_ivIn (s : State) (n : Nat) : (s.succeed n).ivIn = s.ivIn := rfl
@[simp] theorem State.succeed_din (s : State) (n : Nat) : (s.succeed n).din = s.din := rfl
@[simp] theorem State.succeed_stream (s : State) (n : Nat) : (s.succeed n).stream = s.stream := rfl
@[simp] theorem State.succeed_draws (s : State) (n : Nat) : (s.succeed n).draws = s.draws := rfl
@[simp] theorem State.succeed_context (s : State) (n : Nat) (k : Mode) : (s.succeed n).context k = s.context k := by cases k <;> rfl
@[simp] theorem State.succeed_iv (s : State) (n : Nat) (k : Mode) : (s.succeed n).iv k = s.iv k := by cases k <;> rfl

/-! `State.acceptMessage` -/

@[simp] theorem State.acceptMessage_ecb (s : State) : (s.acceptMessage).ecb = s.ecb := rfl
@[simp] theorem State.acceptMessage_cbc (s : State) : (s.acceptMessage).cbc = s.cbc := rfl
@[simp] theorem State.acceptMessage_cfb (s : State) : (s.acceptMessage).cfb = s.cfb := rfl
@[simp] theorem State.acceptMessage_ofb (s : State) : (s.acceptMessage).ofb = s.ofb := rfl
@[simp] theorem State.acceptMessage_ctr (s : State) : (s.acceptMessage).ctr = s.ctr := rfl
@[simp] theorem State.acceptMessage_cmdr (s : State) : (s.acceptMessage).cmdr = s.cmdr := rfl
@[simp] theorem State.acceptMessage_st (s : State) : (s.acceptMessage).st = s.st := rfl
@[simp] theorem State.acceptMessage_err (s : State) : (s.acceptMessage).err = s.err := rfl
@[simp] theorem State.acceptMessage_ilen (s : State) : (s.acceptMessage).ilen = s.din.length := rfl
@[simp] theorem State.acceptMessage_olen (s : State) : (s.acceptMessage).olen = s.olen := rfl
@[simp] theorem State.acceptMessage_ibuf (s : State) : (s.acceptMessage).ibuf = Memory.holding 0 s.din := rfl
@[simp] theorem State.acceptMessage_obuf (s : State) : (s.acceptMessage).obuf = s.obuf := rfl
@[simp] theorem State.acceptMessage_fb (s : State) : (s.acceptMessage).fb = s.fb := rfl
@[simp] theorem State.acceptMessage_ks (s : State) : (s.acceptMessage).ks = s.ks := rfl
@[simp] theorem State.acceptMessage_xb (s : State) : (s.acceptMessage).xb = s.xb := rfl
@[simp] theorem State.acceptMessage_xlen (s : State) : (s.acceptMessage).xlen = s.xlen := rfl
@[simp] theorem State.acceptMessage_yb (s : State) : (s.acceptMessage).yb = s.yb := rfl
@[simp] theorem State.acceptMessage_idx (s : State) : (s.acceptMessage).idx = s.idx := rfl
@[simp] theorem State.acceptMessage_nblk (s : State) : (s.acceptMessage).nblk = s.nblk := rfl
@[simp] theorem State.acceptMessage_utag (s : State) : (s.acceptMessage).utag = UnpadTag.ofBool (Config.freeBit s.draws) := rfl
@[simp] theorem State.acceptMessage_keyIn (s : State) : (s.acceptMessage).keyIn = s.keyIn := rfl
@[simp] theorem State.acceptMessage_ivIn (s : State) : (s.acceptMessage).ivIn = s.ivIn := rfl
@[simp] theorem State.acceptMessage_din (s : State) : (s.acceptMessage).din = s.din := rfl
@[simp] theorem State.acceptMessage_stream (s : State) : (s.acceptMessage).stream = s.stream := rfl
@[simp] theorem State.acceptMessage_draws (s : State) : (s.acceptMessage).draws = s.draws + 1 := rfl
@[simp] theorem State.acceptMessage_context (s : State) (k : Mode) : (s.acceptMessage).context k = s.context k := by cases k <;> rfl
@[simp] theorem State.acceptMessage_iv (s : State) (k : Mode) : (s.acceptMessage).iv k = s.iv k := by cases k <;> rfl

/-! `State.load` -/

@[simp] theorem State.load_ecb (s : State) (m : Mode) : (s.load m).ecb = s.ecb := rfl
@[simp] theorem State.load_cbc (s : State) (m : Mode) : (s.load m).cbc = s.cbc := rfl
@[simp] theorem State.load_cfb (s : State) (m : Mode) : (s.load m).cfb = s.cfb := rfl
@[simp] theorem State.load_ofb (s : State) (m : Mode) : (s.load m).ofb = s.ofb := rfl
@[simp] theorem State.load_ctr (s : State) (m : Mode) : (s.load m).ctr = s.ctr := rfl
@[simp] theorem State.load_cmdr (s : State) (m : Mode) : (s.load m).cmdr = s.cmdr := rfl
@[simp] theorem State.load_st (s : State) (m : Mode) : (s.load m).st = s.st := rfl
@[simp] theorem State.load_err (s : State) (m : Mode) : (s.load m).err = s.err := rfl
@[simp] theorem State.load_ilen (s : State) (m : Mode) : (s.load m).ilen = s.ilen := rfl
@[simp] theorem State.load_olen (s : State) (m : Mode) : (s.load m).olen = s.olen := rfl
@[simp] theorem State.load_ibuf (s : State) (m : Mode) : (s.load m).ibuf = s.ibuf := rfl
@[simp] theorem State.load_obuf (s : State) (m : Mode) : (s.load m).obuf = s.obuf := rfl
@[simp] theorem State.load_ks (s : State) (m : Mode) : (s.load m).ks = s.ks := rfl
@[simp] theorem State.load_xb (s : State) (m : Mode) : (s.load m).xb = s.xb := rfl
@[simp] theorem State.load_xlen (s : State) (m : Mode) : (s.load m).xlen = s.xlen := rfl
@[simp] theorem State.load_yb (s : State) (m : Mode) : (s.load m).yb = s.yb := rfl
@[simp] theorem State.load_idx (s : State) (m : Mode) : (s.load m).idx = 0 := rfl
@[simp] theorem State.load_nblk (s : State) (m : Mode) : (s.load m).nblk = blockCount s.ilen := rfl
@[simp] theorem State.load_utag (s : State) (m : Mode) : (s.load m).utag = s.utag := rfl
@[simp] theorem State.load_keyIn (s : State) (m : Mode) : (s.load m).keyIn = s.keyIn := rfl
@[simp] theorem State.load_ivIn (s : State) (m : Mode) : (s.load m).ivIn = s.ivIn := rfl
@[simp] theorem State.load_din (s : State) (m : Mode) : (s.load m).din = s.din := rfl
@[simp] theorem State.load_stream (s : State) (m : Mode) : (s.load m).stream = s.stream := rfl
@[simp] theorem State.load_draws (s : State) (m : Mode) : (s.load m).draws = s.draws := rfl
@[simp] theorem State.load_context (s : State) (m : Mode) (k : Mode) : (s.load m).context k = s.context k := by cases k <;> rfl
@[simp] theorem State.load_iv (s : State) (m : Mode) (k : Mode) : (s.load m).iv k = s.iv k := by cases k <;> rfl

/-! `State.dropMessage` -/

@[simp] theorem State.dropMessage_ecb (s : State) : (s.dropMessage).ecb = s.ecb := rfl
@[simp] theorem State.dropMessage_cbc (s : State) : (s.dropMessage).cbc = s.cbc := rfl
@[simp] theorem State.dropMessage_cfb (s : State) : (s.dropMessage).cfb = s.cfb := rfl
@[simp] theorem State.dropMessage_ofb (s : State) : (s.dropMessage).ofb = s.ofb := rfl
@[simp] theorem State.dropMessage_ctr (s : State) : (s.dropMessage).ctr = s.ctr := rfl
@[simp] theorem State.dropMessage_cmdr (s : State) : (s.dropMessage).cmdr = s.cmdr := rfl
@[simp] theorem State.dropMessage_st (s : State) : (s.dropMessage).st = s.st := rfl
@[simp] theorem State.dropMessage_err (s : State) : (s.dropMessage).err = s.err := rfl
@[simp] theorem State.dropMessage_ilen (s : State) : (s.dropMessage).ilen = Config.freeNat s.draws := rfl
@[simp] theorem State.dropMessage_olen (s : State) : (s.dropMessage).olen = s.olen := rfl
@[simp] theorem State.dropMessage_ibuf (s : State) : (s.dropMessage).ibuf = [] := rfl
@[simp] theorem State.dropMessage_obuf (s : State) : (s.dropMessage).obuf = s.obuf := rfl
@[simp] theorem State.dropMessage_fb (s : State) : (s.dropMessage).fb = s.fb := rfl
@[simp] theorem State.dropMessage_ks (s : State) : (s.dropMessage).ks = s.ks := rfl
@[simp] theorem State.dropMessage_xb (s : State) : (s.dropMessage).xb = s.xb := rfl
@[simp] theorem State.dropMessage_xlen (s : State) : (s.dropMessage).xlen = s.xlen := rfl
@[simp] theorem State.dropMessage_yb (s : State) : (s.dropMessage).yb = s.yb := rfl
@[simp] theorem State.dropMessage_idx (s : State) : (s.dropMessage).idx = s.idx := rfl
@[simp] theorem State.dropMessage_nblk (s : State) : (s.dropMessage).nblk = s.nblk := rfl
@[simp] theorem State.dropMessage_utag (s : State) : (s.dropMessage).utag = s.utag := rfl
@[simp] theorem State.dropMessage_keyIn (s : State) : (s.dropMessage).keyIn = s.keyIn := rfl
@[simp] theorem State.dropMessage_ivIn (s : State) : (s.dropMessage).ivIn = s.ivIn := rfl
@[simp] theorem State.dropMessage_din (s : State) : (s.dropMessage).din = s.din := rfl
@[simp] theorem State.dropMessage_stream (s : State) : (s.dropMessage).stream = s.stream := rfl
@[simp] theorem State.dropMessage_draws (s : State) : (s.dropMessage).draws = s.draws + 1 := rfl
@[simp] theorem State.dropMessage_context (s : State) (k : Mode) : (s.dropMessage).context k = s.context k := by cases k <;> rfl
@[simp] theorem State.dropMessage_iv (s : State) (k : Mode) : (s.dropMessage).iv k = s.iv k := by cases k <;> rfl

/-! `State.dropBlocks` -/

@[simp] theorem State.dropBlocks_ecb (s : State) : (s.dropBlocks).ecb = s.ecb := rfl
@[simp] theorem State.dropBlocks_cbc (s : State) : (s.dropBlocks).cbc = s.cbc := rfl
@[simp] theorem State.dropBlocks_cfb (s : State) : (s.dropBlocks).cfb = s.cfb := rfl
@[simp] theorem State.dropBlocks_ofb (s : State) : (s.dropBlocks).ofb = s.ofb := rfl
@[simp] theorem State.dropBlocks_ctr (s : State) : (s.dropBlocks).ctr = s.ctr := rfl
@[simp] theorem State.dropBlocks_cmdr (s : State) : (s.dropBlocks).cmdr = s.cmdr := rfl
@[simp] theorem State.dropBlocks_st (s : State) : (s.dropBlocks).st = s.st := rfl
@[simp] theorem State.dropBlocks_err (s : State) : (s.dropBlocks).err = s.err := rfl
@[simp] theorem State.dropBlocks_ilen (s : State) : (s.dropBlocks).ilen = s.ilen := rfl
@[simp] theorem State.dropBlocks_olen (s : State) : (s.dropBlocks).olen = s.olen := rfl
@[simp] theorem State.dropBlocks_ibuf (s : State) : (s.dropBlocks).ibuf = s.ibuf := rfl
@[simp] theorem State.dropBlocks_obuf (s : State) : (s.dropBlocks).obuf = s.obuf := rfl
@[simp] theorem State.dropBlocks_fb (s : State) : (s.dropBlocks).fb = Config.freeShort s.draws := rfl
@[simp] theorem State.dropBlocks_ks (s : State) : (s.dropBlocks).ks = Config.freeBlock (s.draws + 3) := rfl
@[simp] theorem State.dropBlocks_xb (s : State) : (s.dropBlocks).xb = Config.freeShort (s.draws + 1) := rfl
@[simp] theorem State.dropBlocks_xlen (s : State) : (s.dropBlocks).xlen = Config.freeBits5 s.draws := rfl
@[simp] theorem State.dropBlocks_yb (s : State) : (s.dropBlocks).yb = Config.freeShort (s.draws + 2) := rfl
@[simp] theorem State.dropBlocks_idx (s : State) : (s.dropBlocks).idx = Config.freeNat s.draws := rfl
@[simp] theorem State.dropBlocks_nblk (s : State) : (s.dropBlocks).nblk = Config.freeNat (s.draws + 1) := rfl
@[simp] theorem State.dropBlocks_utag (s : State) : (s.dropBlocks).utag = s.utag := rfl
@[simp] theorem State.dropBlocks_keyIn (s : State) : (s.dropBlocks).keyIn = s.keyIn := rfl
@[simp] theorem State.dropBlocks_ivIn (s : State) : (s.dropBlocks).ivIn = s.ivIn := rfl
@[simp] theorem State.dropBlocks_din (s : State) : (s.dropBlocks).din = s.din := rfl
@[simp] theorem State.dropBlocks_stream (s : State) : (s.dropBlocks).stream = s.stream := rfl
@[simp] theorem State.dropBlocks_draws (s : State) : (s.dropBlocks).draws = s.draws + 4 := rfl
@[simp] theorem State.dropBlocks_context (s : State) (k : Mode) : (s.dropBlocks).context k = s.context k := by cases k <;> rfl
@[simp] theorem State.dropBlocks_iv (s : State) (k : Mode) : (s.dropBlocks).iv k = s.iv k := by cases k <;> rfl

/-! `State.latchBlock` -/

@[simp] theorem State.latchBlock_ecb (s : State) (v : Bytes) : (s.latchBlock v).ecb = s.ecb := rfl
@[simp] theorem State.latchBlock_cbc (s : State) (v : Bytes) : (s.latchBlock v).cbc = s.cbc := rfl
@[simp] theorem State.latchBlock_cfb (s : State) (v : Bytes) : (s.latchBlock v).cfb = s.cfb := rfl
@[simp] theorem State.latchBlock_ofb (s : State) (v : Bytes) : (s.latchBlock v).ofb = s.ofb := rfl
@[simp] theorem State.latchBlock_ctr (s : State) (v : Bytes) : (s.latchBlock v).ctr = s.ctr := rfl
@[simp] theorem State.latchBlock_cmdr (s : State) (v : Bytes) : (s.latchBlock v).cmdr = s.cmdr := rfl
@[simp] theorem State.latchBlock_st (s : State) (v : Bytes) : (s.latchBlock v).st = s.st := rfl
@[simp] theorem State.latchBlock_err (s : State) (v : Bytes) : (s.latchBlock v).err = s.err := rfl
@[simp] theorem State.latchBlock_ilen (s : State) (v : Bytes) : (s.latchBlock v).ilen = s.ilen := rfl
@[simp] theorem State.latchBlock_olen (s : State) (v : Bytes) : (s.latchBlock v).olen = s.olen := rfl
@[simp] theorem State.latchBlock_ibuf (s : State) (v : Bytes) : (s.latchBlock v).ibuf = s.ibuf := rfl
@[simp] theorem State.latchBlock_obuf (s : State) (v : Bytes) : (s.latchBlock v).obuf = s.obuf := rfl
@[simp] theorem State.latchBlock_fb (s : State) (v : Bytes) : (s.latchBlock v).fb = s.fb := rfl
@[simp] theorem State.latchBlock_ks (s : State) (v : Bytes) : (s.latchBlock v).ks = s.ks := rfl
@[simp] theorem State.latchBlock_xb (s : State) (v : Bytes) : (s.latchBlock v).xb = v := rfl
@[simp] theorem State.latchBlock_xlen (s : State) (v : Bytes) : (s.latchBlock v).xlen = BitVec.ofNat 5 v.length := rfl
@[simp] theorem State.latchBlock_yb (s : State) (v : Bytes) : (s.latchBlock v).yb = s.yb := rfl
@[simp] theorem State.latchBlock_idx (s : State) (v : Bytes) : (s.latchBlock v).idx = s.idx := rfl
@[simp] theorem State.latchBlock_nblk (s : State) (v : Bytes) : (s.latchBlock v).nblk = s.nblk := rfl
@[simp] theorem State.latchBlock_utag (s : State) (v : Bytes) : (s.latchBlock v).utag = s.utag := rfl
@[simp] theorem State.latchBlock_keyIn (s : State) (v : Bytes) : (s.latchBlock v).keyIn = s.keyIn := rfl
@[simp] theorem State.latchBlock_ivIn (s : State) (v : Bytes) : (s.latchBlock v).ivIn = s.ivIn := rfl
@[simp] theorem State.latchBlock_din (s : State) (v : Bytes) : (s.latchBlock v).din = s.din := rfl
@[simp] theorem State.latchBlock_stream (s : State) (v : Bytes) : (s.latchBlock v).stream = s.stream := rfl
@[simp] theorem State.latchBlock_draws (s : State) (v : Bytes) : (s.latchBlock v).draws = s.draws := rfl
@[simp] theorem State.latchBlock_context (s : State) (v : Bytes) (k : Mode) : (s.latchBlock v).context k = s.context k := by cases k <;> rfl
@[simp] theorem State.latchBlock_iv (s : State) (v : Bytes) (k : Mode) : (s.latchBlock v).iv k = s.iv k := by cases k <;> rfl

/-! `State.encrypt` -/

@[simp] theorem State.encrypt_ecb (s : State) (p : Primitive) (m : Mode) (b : Bytes) : (s.encrypt p m b).ecb = s.ecb := rfl
@[simp] theorem State.encrypt_cbc (s : State) (p : Primitive) (m : Mode) (b : Bytes) : (s.encrypt p m b).cbc = s.cbc := rfl
@[simp] theorem State.encrypt_cfb (s : State) (p : Primitive) (m : Mode) (b : Bytes) : (s.encrypt p m b).cfb = s.cfb := rfl
@[simp] theorem State.encrypt_ofb (s : State) (p : Primitive) (m : Mode) (b : Bytes) : (s.encrypt p m b).ofb = s.ofb := rfl
@[simp] theorem State.encrypt_ctr (s : State) (p : Primitive) (m : Mode) (b : Bytes) : (s.encrypt p m b).ctr = s.ctr := rfl
@[simp] theorem State.encrypt_cmdr (s : State) (p : Primitive) (m : Mode) (b : Bytes) : (s.encrypt p m b).cmdr = s.cmdr := rfl
@[simp] theorem State.encrypt_st (s : State) (p : Primitive) (m : Mode) (b : Bytes) : (s.encrypt p m b).st = s.st := rfl
@[simp] theorem State.encrypt_err (s : State) (p : Primitive) (m : Mode) (b : Bytes) : (s.encrypt p m b).err = s.err := rfl
@[simp] theorem State.encrypt_ilen (s : State) (p : Primitive) (m : Mode) (b : Bytes) : (s.encrypt p m b).ilen = s.ilen := rfl
@[simp] theorem State.encrypt_olen (s : State) (p : Primitive) (m : Mode) (b : Bytes) : (s.encrypt p m b).olen = s.olen := rfl
@[simp] theorem State.encrypt_ibuf (s : State) (p : Primitive) (m : Mode) (b : Bytes) : (s.encrypt p m b).ibuf = s.ibuf := rfl
@[simp] theorem State.encrypt_obuf (s : State) (p : Primitive) (m : Mode) (b : Bytes) : (s.encrypt p m b).obuf = s.obuf := rfl
@[simp] theorem State.encrypt_fb (s : State) (p : Primitive) (m : Mode) (b : Bytes) : (s.encrypt p m b).fb = s.fb := rfl
@[simp] theorem State.encrypt_ks (s : State) (p : Primitive) (m : Mode) (b : Bytes) : (s.encrypt p m b).ks = p.enc (s.context m).primKey b := rfl
@[simp] theorem State.encrypt_xb (s : State) (p : Primitive) (m : Mode) (b : Bytes) : (s.encrypt p m b).xb = s.xb := rfl
@[simp] theorem State.encrypt_xlen (s : State) (p : Primitive) (m : Mode) (b : Bytes) : (s.encrypt p m b).xlen = s.xlen := rfl
@[simp] theorem State.encrypt_yb (s : State) (p : Primitive) (m : Mode) (b : Bytes) : (s.encrypt p m b).yb = s.yb := rfl
@[simp] theorem State.encrypt_idx (s : State) (p : Primitive) (m : Mode) (b : Bytes) : (s.encrypt p m b).idx = s.idx := rfl
@[simp] theorem State.encrypt_nblk (s : State) (p : Primitive) (m : Mode) (b : Bytes) : (s.encrypt p m b).nblk = s.nblk := rfl
@[simp] theorem State.encrypt_utag (s : State) (p : Primitive) (m : Mode) (b : Bytes) : (s.encrypt p m b).utag = s.utag := rfl
@[simp] theorem State.encrypt_keyIn (s : State) (p : Primitive) (m : Mode) (b : Bytes) : (s.encrypt p m b).keyIn = s.keyIn := rfl
@[simp] theorem State.encrypt_ivIn (s : State) (p : Primitive) (m : Mode) (b : Bytes) : (s.encrypt p m b).ivIn = s.ivIn := rfl
@[simp] theorem State.encrypt_din (s : State) (p : Primitive) (m : Mode) (b : Bytes) : (s.encrypt p m b).din = s.din := rfl
@[simp] theorem State.encrypt_stream (s : State) (p : Primitive) (m : Mode) (b : Bytes) : (s.encrypt p m b).stream = s.stream := rfl
@[simp] theorem State.encrypt_draws (s : State) (p : Primitive) (m : Mode) (b : Bytes) : (s.encrypt p m b).draws = s.draws := rfl
@[simp] theorem State.encrypt_context (s : State) (p : Primitive) (m : Mode) (b : Bytes) (k : Mode) : (s.encrypt p m b).context k = s.context k := by cases k <;> rfl
@[simp] theorem State.encrypt_iv (s : State) (p : Primitive) (m : Mode) (b : Bytes) (k : Mode) : (s.encrypt p m b).iv k = s.iv k := by cases k <;> rfl

/-! `State.decrypt` -/

@[simp] theorem State.decrypt_ecb (s : State) (p : Primitive) (m : Mode) (b : Bytes) : (s.decrypt p m b).ecb = s.ecb := rfl
@[simp] theorem State.decrypt_cbc (s : State) (p : Primitive) (m : Mode) (b : Bytes) : (s.decrypt p m b).cbc = s.cbc := rfl
@[simp] theorem State.decrypt_cfb (s : State) (p : Primitive) (m : Mode) (b : Bytes) : (s.decrypt p m b).cfb = s.cfb := rfl
@[simp] theorem State.decrypt_ofb (s : State) (p : Primitive) (m : Mode) (b : Bytes) : (s.decrypt p m b).ofb = s.ofb := rfl
@[simp] theorem State.decrypt_ctr (s : State) (p : Primitive) (m : Mode) (b : Bytes) : (s.decrypt p m b).ctr = s.ctr := rfl
@[simp] theorem State.decrypt_cmdr (s : State) (p : Primitive) (m : Mode) (b : Bytes) : (s.decrypt p m b).cmdr = s.cmdr := rfl
@[simp] theorem State.decrypt_st (s : State) (p : Primitive) (m : Mode) (b : Bytes) : (s.decrypt p m b).st = s.st := rfl
@[simp] theorem State.decrypt_err (s : State) (p : Primitive) (m : Mode) (b : Bytes) : (s.decrypt p m b).err = s.err := rfl
@[simp] theorem State.decrypt_ilen (s : State) (p : Primitive) (m : Mode) (b : Bytes) : (s.decrypt p m b).ilen = s.ilen := rfl
@[simp] theorem State.decrypt_olen (s : State) (p : Primitive) (m : Mode) (b : Bytes) : (s.decrypt p m b).olen = s.olen := rfl
@[simp] theorem State.decrypt_ibuf (s : State) (p : Primitive) (m : Mode) (b : Bytes) : (s.decrypt p m b).ibuf = s.ibuf := rfl
@[simp] theorem State.decrypt_obuf (s : State) (p : Primitive) (m : Mode) (b : Bytes) : (s.decrypt p m b).obuf = s.obuf := rfl
@[simp] theorem State.decrypt_fb (s : State) (p : Primitive) (m : Mode) (b : Bytes) : (s.decrypt p m b).fb = s.fb := rfl
@[simp] theorem State.decrypt_ks (s : State) (p : Primitive) (m : Mode) (b : Bytes) : (s.decrypt p m b).ks = p.dec (s.context m).primKey b := rfl
@[simp] theorem State.decrypt_xb (s : State) (p : Primitive) (m : Mode) (b : Bytes) : (s.decrypt p m b).xb = s.xb := rfl
@[simp] theorem State.decrypt_xlen (s : State) (p : Primitive) (m : Mode) (b : Bytes) : (s.decrypt p m b).xlen = s.xlen := rfl
@[simp] theorem State.decrypt_yb (s : State) (p : Primitive) (m : Mode) (b : Bytes) : (s.decrypt p m b).yb = s.yb := rfl
@[simp] theorem State.decrypt_idx (s : State) (p : Primitive) (m : Mode) (b : Bytes) : (s.decrypt p m b).idx = s.idx := rfl
@[simp] theorem State.decrypt_nblk (s : State) (p : Primitive) (m : Mode) (b : Bytes) : (s.decrypt p m b).nblk = s.nblk := rfl
@[simp] theorem State.decrypt_utag (s : State) (p : Primitive) (m : Mode) (b : Bytes) : (s.decrypt p m b).utag = s.utag := rfl
@[simp] theorem State.decrypt_keyIn (s : State) (p : Primitive) (m : Mode) (b : Bytes) : (s.decrypt p m b).keyIn = s.keyIn := rfl
@[simp] theorem State.decrypt_ivIn (s : State) (p : Primitive) (m : Mode) (b : Bytes) : (s.decrypt p m b).ivIn = s.ivIn := rfl
@[simp] theorem State.decrypt_din (s : State) (p : Primitive) (m : Mode) (b : Bytes) : (s.decrypt p m b).din = s.din := rfl
@[simp] theorem State.decrypt_stream (s : State) (p : Primitive) (m : Mode) (b : Bytes) : (s.decrypt p m b).stream = s.stream := rfl
@[simp] theorem State.decrypt_draws (s : State) (p : Primitive) (m : Mode) (b : Bytes) : (s.decrypt p m b).draws = s.draws := rfl
@[simp] theorem State.decrypt_context (s : State) (p : Primitive) (m : Mode) (b : Bytes) (k : Mode) : (s.decrypt p m b).context k = s.context k := by cases k <;> rfl
@[simp] theorem State.decrypt_iv (s : State) (p : Primitive) (m : Mode) (b : Bytes) (k : Mode) : (s.decrypt p m b).iv k = s.iv k := by cases k <;> rfl

/-! `State.memWrite` -/

@[simp] theorem State.memWrite_ecb (s : State) (a : Nat) (v : Bytes) : (s.memWrite a v).ecb = s.ecb := rfl
@[simp] theorem State.memWrite_cbc (s : State) (a : Nat) (v : Bytes) : (s.memWrite a v).cbc = s.cbc := rfl
@[simp] theorem State.memWrite_cfb (s : State) (a : Nat) (v : Bytes) : (s.memWrite a v).cfb = s.cfb := rfl
@[simp] theorem State.memWrite_ofb (s : State) (a : Nat) (v : Bytes) : (s.memWrite a v).ofb = s.ofb := rfl
@[simp] theorem State.memWrite_ctr (s : State) (a : Nat) (v : Bytes) : (s.memWrite a v).ctr = s.ctr := rfl
@[simp] theorem State.memWrite_cmdr (s : State) (a : Nat) (v : Bytes) : (s.memWrite a v).cmdr = s.cmdr := rfl
@[simp] theorem State.memWrite_st (s : State) (a : Nat) (v : Bytes) : (s.memWrite a v).st = s.st := rfl
@[simp] theorem State.memWrite_err (s : State) (a : Nat) (v : Bytes) : (s.memWrite a v).err = s.err := rfl
@[simp] theorem State.memWrite_ilen (s : State) (a : Nat) (v : Bytes) : (s.memWrite a v).ilen = s.ilen := rfl
@[simp] theorem State.memWrite_olen (s : State) (a : Nat) (v : Bytes) : (s.memWrite a v).olen = s.olen := rfl
@[simp] theorem State.memWrite_ibuf (s : State) (a : Nat) (v : Bytes) : (s.memWrite a v).ibuf = s.ibuf := rfl
@[simp] theorem State.memWrite_obuf (s : State) (a : Nat) (v : Bytes) : (s.memWrite a v).obuf = Memory.writeBytes s.obuf a v := rfl
@[simp] theorem State.memWrite_fb (s : State) (a : Nat) (v : Bytes) : (s.memWrite a v).fb = s.fb := rfl
@[simp] theorem State.memWrite_ks (s : State) (a : Nat) (v : Bytes) : (s.memWrite a v).ks = s.ks := rfl
@[simp] theorem State.memWrite_xb (s : State) (a : Nat) (v : Bytes) : (s.memWrite a v).xb = s.xb := rfl
@[simp] theorem State.memWrite_xlen (s : State) (a : Nat) (v : Bytes) : (s.memWrite a v).xlen = s.xlen := rfl
@[simp] theorem State.memWrite_yb (s : State) (a : Nat) (v : Bytes) : (s.memWrite a v).yb = s.yb := rfl
@[simp] theorem State.memWrite_idx (s : State) (a : Nat) (v : Bytes) : (s.memWrite a v).idx = s.idx := rfl
@[simp] theorem State.memWrite_nblk (s : State) (a : Nat) (v : Bytes) : (s.memWrite a v).nblk = s.nblk := rfl
@[simp] theorem State.memWrite_utag (s : State) (a : Nat) (v : Bytes) : (s.memWrite a v).utag = s.utag := rfl
@[simp] theorem State.memWrite_keyIn (s : State) (a : Nat) (v : Bytes) : (s.memWrite a v).keyIn = s.keyIn := rfl
@[simp] theorem State.memWrite_ivIn (s : State) (a : Nat) (v : Bytes) : (s.memWrite a v).ivIn = s.ivIn := rfl
@[simp] theorem State.memWrite_din (s : State) (a : Nat) (v : Bytes) : (s.memWrite a v).din = s.din := rfl
@[simp] theorem State.memWrite_stream (s : State) (a : Nat) (v : Bytes) : (s.memWrite a v).stream = s.stream := rfl
@[simp] theorem State.memWrite_draws (s : State) (a : Nat) (v : Bytes) : (s.memWrite a v).draws = s.draws := rfl
@[simp] theorem State.memWrite_context (s : State) (a : Nat) (v : Bytes) (k : Mode) : (s.memWrite a v).context k = s.context k := by cases k <;> rfl
@[simp] theorem State.memWrite_iv (s : State) (a : Nat) (v : Bytes) (k : Mode) : (s.memWrite a v).iv k = s.iv k := by cases k <;> rfl

/-! `State.emit` -/

@[simp] theorem State.emit_ecb (s : State) (y : Bytes) : (s.emit y).ecb = s.ecb := rfl
@[simp] theorem State.emit_cbc (s : State) (y : Bytes) : (s.emit y).cbc = s.cbc := rfl
@[simp] theorem State.emit_cfb (s : State) (y : Bytes) : (s.emit y).cfb = s.cfb := rfl
@[simp] theorem State.emit_ofb (s : State) (y : Bytes) : (s.emit y).ofb = s.ofb := rfl
@[simp] theorem State.emit_ctr (s : State) (y : Bytes) : (s.emit y).ctr = s.ctr := rfl
@[simp] theorem State.emit_cmdr (s : State) (y : Bytes) : (s.emit y).cmdr = s.cmdr := rfl
@[simp] theorem State.emit_st (s : State) (y : Bytes) : (s.emit y).st = s.st := rfl
@[simp] theorem State.emit_err (s : State) (y : Bytes) : (s.emit y).err = s.err := rfl
@[simp] theorem State.emit_ilen (s : State) (y : Bytes) : (s.emit y).ilen = s.ilen := rfl
@[simp] theorem State.emit_olen (s : State) (y : Bytes) : (s.emit y).olen = s.olen := rfl
@[simp] theorem State.emit_ibuf (s : State) (y : Bytes) : (s.emit y).ibuf = s.ibuf := rfl
@[simp] theorem State.emit_obuf (s : State) (y : Bytes) : (s.emit y).obuf = Memory.writeBytes s.obuf (blockOffset s.idx) y := rfl
@[simp] theorem State.emit_fb (s : State) (y : Bytes) : (s.emit y).fb = s.fb := rfl
@[simp] theorem State.emit_ks (s : State) (y : Bytes) : (s.emit y).ks = s.ks := rfl
@[simp] theorem State.emit_xb (s : State) (y : Bytes) : (s.emit y).xb = s.xb := rfl
@[simp] theorem State.emit_xlen (s : State) (y : Bytes) : (s.emit y).xlen = s.xlen := rfl
@[simp] theorem State.emit_yb (s : State) (y : Bytes) : (s.emit y).yb = y := rfl
@[simp] theorem State.emit_idx (s : State) (y : Bytes) : (s.emit y).idx = s.idx := rfl
@[simp] theorem State.emit_nblk (s : State) (y : Bytes) : (s.emit y).nblk = s.nblk := rfl
@[simp] theorem State.emit_utag (s : State) (y : Bytes) : (s.emit y).utag = s.utag := rfl
@[simp] theorem State.emit_keyIn (s : State) (y : Bytes) : (s.emit y).keyIn = s.keyIn := rfl
@[simp] theorem State.emit_ivIn (s : State) (y : Bytes) : (s.emit y).ivIn = s.ivIn := rfl
@[simp] theorem State.emit_din (s : State) (y : Bytes) : (s.emit y).din = s.din := rfl
@[simp] theorem State.emit_stream (s : State) (y : Bytes) : (s.emit y).stream = s.stream := rfl
@[simp] theorem State.emit_draws (s : State) (y : Bytes) : (s.emit y).draws = s.draws := rfl
@[simp] theorem State.emit_context (s : State) (y : Bytes) (k : Mode) : (s.emit y).context k = s.context k := by cases k <;> rfl
@[simp] theorem State.emit_iv (s : State) (y : Bytes) (k : Mode) : (s.emit y).iv k = s.iv k := by cases k <;> rfl

/-! `State.feedback` -/

@[simp] theorem State.feedback_ecb (s : State) (v : Bytes) : (s.feedback v).ecb = s.ecb := rfl
@[simp] theorem State.feedback_cbc (s : State) (v : Bytes) : (s.feedback v).cbc = s.cbc := rfl
@[simp] theorem State.feedback_cfb (s : State) (v : Bytes) : (s.feedback v).cfb = s.cfb := rfl
@[simp] theorem State.feedback_ofb (s : State) (v : Bytes) : (s.feedback v).ofb = s.ofb := rfl
@[simp] theorem State.feedback_ctr (s : State) (v : Bytes) : (s.feedback v).ctr = s.ctr := rfl
@[simp] theorem State.feedback_cmdr (s : State) (v : Bytes) : (s.feedback v).cmdr = s.cmdr := rfl
@[simp] theorem State.feedback_st (s : State) (v : Bytes) : (s.feedback v).st = s.st := rfl
@[simp] theorem State.feedback_err (s : State) (v : Bytes) : (s.feedback v).err = s.err := rfl
@[simp] theorem State.feedback_ilen (s : State) (v : Bytes) : (s.feedback v).ilen = s.ilen := rfl
@[simp] theorem State.feedback_olen (s : State) (v : Bytes) : (s.feedback v).olen = s.olen := rfl
@[simp] theorem State.feedback_ibuf (s : State) (v : Bytes) : (s.feedback v).ibuf = s.ibuf := rfl
@[simp] theorem State.feedback_obuf (s : State) (v : Bytes) : (s.feedback v).obuf = s.obuf := rfl
@[simp] theorem State.feedback_fb (s : State) (v : Bytes) : (s.feedback v).fb = v := rfl
@[simp] theorem State.feedback_ks (s : State) (v : Bytes) : (s.feedback v).ks = s.ks := rfl
@[simp] theorem State.feedback_xb (s : State) (v : Bytes) : (s.feedback v).xb = s.xb := rfl
@[simp] theorem State.feedback_xlen (s : State) (v : Bytes) : (s.feedback v).xlen = s.xlen := rfl
@[simp] theorem State.feedback_yb (s : State) (v : Bytes) : (s.feedback v).yb = s.yb := rfl
@[simp] theorem State.feedback_idx (s : State) (v : Bytes) : (s.feedback v).idx = s.idx := rfl
@[simp] theorem State.feedback_nblk (s : State) (v : Bytes) : (s.feedback v).nblk = s.nblk := rfl
@[simp] theorem State.feedback_utag (s : State) (v : Bytes) : (s.feedback v).utag = s.utag := rfl
@[simp] theorem State.feedback_keyIn (s : State) (v : Bytes) : (s.feedback v).keyIn = s.keyIn := rfl
@[simp] theorem State.feedback_ivIn (s : State) (v : Bytes) : (s.feedback v).ivIn = s.ivIn := rfl
@[simp] theorem State.feedback_din (s : State) (v : Bytes) : (s.feedback v).din = s.din := rfl
@[simp] theorem State.feedback_stream (s : State) (v : Bytes) : (s.feedback v).stream = s.stream := rfl
@[simp] theorem State.feedback_draws (s : State) (v : Bytes) : (s.feedback v).draws = s.draws := rfl
@[simp] theorem State.feedback_context (s : State) (v : Bytes) (k : Mode) : (s.feedback v).context k = s.context k := by cases k <;> rfl
@[simp] theorem State.feedback_iv (s : State) (v : Bytes) (k : Mode) : (s.feedback v).iv k = s.iv k := by cases k <;> rfl

/-! `State.accept` -/

@[simp] theorem State.accept_ecb (s : State) (r : Request) (rest : List Request) : (s.accept r rest).ecb = s.ecb := rfl
@[simp] theorem State.accept_cbc (s : State) (r : Request) (rest : List Request) : (s.accept r rest).cbc = s.cbc := rfl
@[simp] theorem State.accept_cfb (s : State) (r : Request) (rest : List Request) : (s.accept r rest).cfb = s.cfb := rfl
@[simp] theorem State.accept_ofb (s : State) (r : Request) (rest : List Request) : (s.accept r rest).ofb = s.ofb := rfl
@[simp] theorem State.accept_ctr (s : State) (r : Request) (rest : List Request) : (s.accept r rest).ctr = s.ctr := rfl
@[simp] theorem State.accept_cmdr (s : State) (r : Request) (rest : List Request) : (s.accept r rest).cmdr = r.word := rfl
@[simp] theorem State.accept_st (s : State) (r : Request) (rest : List Request) : (s.accept r rest).st = s.st := rfl
@[simp] theorem State.accept_err (s : State) (r : Request) (rest : List Request) : (s.accept r rest).err = s.err := rfl
@[simp] theorem State.accept_ilen (s : State) (r : Request) (rest : List Request) : (s.accept r rest).ilen = s.ilen := rfl
@[simp] theorem State.accept_olen (s : State) (r : Request) (rest : List Request) : (s.accept r rest).olen = s.olen := rfl
@[simp] theorem State.accept_ibuf (s : State) (r : Request) (rest : List Request) : (s.accept r rest).ibuf = s.ibuf := rfl
@[simp] theorem State.accept_obuf (s : State) (r : Request) (rest : List Request) : (s.accept r rest).obuf = s.obuf := rfl
@[simp] theorem State.accept_fb (s : State) (r : Request) (rest : List Request) : (s.accept r rest).fb = s.fb := rfl
@[simp] theorem State.accept_ks (s : State) (r : Request) (rest : List Request) : (s.accept r rest).ks = s.ks := rfl
@[simp] theorem State.accept_xb (s : State) (r : Request) (rest : List Request) : (s.accept r rest).xb = s.xb := rfl
@[simp] theorem State.accept_xlen (s : State) (r : Request) (rest : List Request) : (s.accept r rest).xlen = s.xlen := rfl
@[simp] theorem State.accept_yb (s : State) (r : Request) (rest : List Request) : (s.accept r rest).yb = s.yb := rfl
@[simp] theorem State.accept_idx (s : State) (r : Request) (rest : List Request) : (s.accept r rest).idx = s.idx := rfl
@[simp] theorem State.accept_nblk (s : State) (r : Request) (rest : List Request) : (s.accept r rest).nblk = s.nblk := rfl
@[simp] theorem State.accept_utag (s : State) (r : Request) (rest : List Request) : (s.accept r rest).utag = s.utag := rfl
@[simp] theorem State.accept_keyIn (s : State) (r : Request) (rest : List Request) : (s.accept r rest).keyIn = r.keyIn := rfl
@[simp] theorem State.accept_ivIn (s : State) (r : Request) (rest : List Request) : (s.accept r rest).ivIn = r.ivIn := rfl
@[simp] theorem State.accept_din (s : State) (r : Request) (rest : List Request) : (s.accept r rest).din = r.din := rfl
@[simp] theorem State.accept_stream (s : State) (r : Request) (rest : List Request) : (s.accept r rest).stream = rest := rfl
@[simp] theorem State.accept_draws (s : State) (r : Request) (rest : List Request) : (s.accept r rest).draws = s.draws := rfl
@[simp] theorem State.accept_context (s : State) (r : Request) (rest : List Request) (k : Mode) : (s.accept r rest).context k = s.context k := by cases k <;> rfl
@[simp] theorem State.accept_iv (s : State) (r : Request) (rest : List Request) (k : Mode) : (s.accept r rest).iv k = s.iv k := by cases k <;> rfl

/-! `State.releaseWord` -/

@[simp] theorem State.releaseWord_ecb (s : State) : (s.releaseWord).ecb = s.ecb := rfl
@[simp] theorem State.releaseWord_cbc (s : State) : (s.releaseWord).cbc = s.cbc := rfl
@[simp] theorem State.releaseWord_cfb (s : State) : (s.releaseWord).cfb = s.cfb := rfl
@[simp] theorem State.releaseWord_ofb (s : State) : (s.releaseWord).ofb = s.ofb := rfl
@[simp] theorem State.releaseWord_ctr (s : State) : (s.releaseWord).ctr = s.ctr := rfl
@[simp] theorem State.releaseWord_cmdr (s : State) : (s.releaseWord).cmdr = Config.freeByte s.draws := rfl
@[simp] theorem State.releaseWord_st (s : State) : (s.releaseWord).st = s.st := rfl
@[simp] theorem State.releaseWord_err (s : State) : (s.releaseWord).err = s.err := rfl
@[simp] theorem State.releaseWord_ilen (s : State) : (s.releaseWord).ilen = s.ilen := rfl
@[simp] theorem State.releaseWord_olen (s : State) : (s.releaseWord).olen = s.olen := rfl
@[simp] theorem State.releaseWord_ibuf (s : State) : (s.releaseWord).ibuf = s.ibuf := rfl
@[simp] theorem State.releaseWord_obuf (s : State) : (s.releaseWord).obuf = s.obuf := rfl
@[simp] theorem State.releaseWord_fb (s : State) : (s.releaseWord).fb = s.fb := rfl
@[simp] theorem State.releaseWord_ks (s : State) : (s.releaseWord).ks = s.ks := rfl
@[simp] theorem State.releaseWord_xb (s : State) : (s.releaseWord).xb = s.xb := rfl
@[simp] theorem State.releaseWord_xlen (s : State) : (s.releaseWord).xlen = s.xlen := rfl
@[simp] theorem State.releaseWord_yb (s : State) : (s.releaseWord).yb = s.yb := rfl
@[simp] theorem State.releaseWord_idx (s : State) : (s.releaseWord).idx = s.idx := rfl
@[simp] theorem State.releaseWord_nblk (s : State) : (s.releaseWord).nblk = s.nblk := rfl
@[simp] theorem State.releaseWord_utag (s : State) : (s.releaseWord).utag = s.utag := rfl
@[simp] theorem State.releaseWord_keyIn (s : State) : (s.releaseWord).keyIn = s.keyIn := rfl
@[simp] theorem State.releaseWord_ivIn (s : State) : (s.releaseWord).ivIn = s.ivIn := rfl
@[simp] theorem State.releaseWord_din (s : State) : (s.releaseWord).din = s.din := rfl
@[simp] theorem State.releaseWord_stream (s : State) : (s.releaseWord).stream = s.stream := rfl
@[simp] theorem State.releaseWord_draws (s : State) : (s.releaseWord).draws = s.draws + 1 := rfl
@[simp] theorem State.releaseWord_context (s : State) (k : Mode) : (s.releaseWord).context k = s.context k := by cases k <;> rfl
@[simp] theorem State.releaseWord_iv (s : State) (k : Mode) : (s.releaseWord).iv k = s.iv k := by cases k <;> rfl

/-- `FB` after the LOAD phase of a mode with an IV (R28). -/
theorem State.load_fb_of_iv (s : State) {m : Mode} {iv : Block} (h : s.iv m = some iv) : (s.load m).fb = iv.toList := by
  simp [State.load, h]

/-! `State.withContext` -/

@[simp] theorem State.withContext_cmdr (s : State) (m : Mode) (c : KeyContext) : (s.withContext m c).cmdr = s.cmdr := by cases m <;> rfl
@[simp] theorem State.withContext_st (s : State) (m : Mode) (c : KeyContext) : (s.withContext m c).st = s.st := by cases m <;> rfl
@[simp] theorem State.withContext_err (s : State) (m : Mode) (c : KeyContext) : (s.withContext m c).err = s.err := by cases m <;> rfl
@[simp] theorem State.withContext_ilen (s : State) (m : Mode) (c : KeyContext) : (s.withContext m c).ilen = s.ilen := by cases m <;> rfl
@[simp] theorem State.withContext_olen (s : State) (m : Mode) (c : KeyContext) : (s.withContext m c).olen = s.olen := by cases m <;> rfl
@[simp] theorem State.withContext_ibuf (s : State) (m : Mode) (c : KeyContext) : (s.withContext m c).ibuf = s.ibuf := by cases m <;> rfl
@[simp] theorem State.withContext_obuf (s : State) (m : Mode) (c : KeyContext) : (s.withContext m c).obuf = s.obuf := by cases m <;> rfl
@[simp] theorem State.withContext_fb (s : State) (m : Mode) (c : KeyContext) : (s.withContext m c).fb = s.fb := by cases m <;> rfl
@[simp] theorem State.withContext_ks (s : State) (m : Mode) (c : KeyContext) : (s.withContext m c).ks = s.ks := by cases m <;> rfl
@[simp] theorem State.withContext_xb (s : State) (m : Mode) (c : KeyContext) : (s.withContext m c).xb = s.xb := by cases m <;> rfl
@[simp] theorem State.withContext_xlen (s : State) (m : Mode) (c : KeyContext) : (s.withContext m c).xlen = s.xlen := by cases m <;> rfl
@[simp] theorem State.withContext_yb (s : State) (m : Mode) (c : KeyContext) : (s.withContext m c).yb = s.yb := by cases m <;> rfl
@[simp] theorem State.withContext_idx (s : State) (m : Mode) (c : KeyContext) : (s.withContext m c).idx = s.idx := by cases m <;> rfl
@[simp] theorem State.withContext_nblk (s : State) (m : Mode) (c : KeyContext) : (s.withContext m c).nblk = s.nblk := by cases m <;> rfl
@[simp] theorem State.withContext_utag (s : State) (m : Mode) (c : KeyContext) : (s.withContext m c).utag = s.utag := by cases m <;> rfl
@[simp] theorem State.withContext_keyIn (s : State) (m : Mode) (c : KeyContext) : (s.withContext m c).keyIn = s.keyIn := by cases m <;> rfl
@[simp] theorem State.withContext_ivIn (s : State) (m : Mode) (c : KeyContext) : (s.withContext m c).ivIn = s.ivIn := by cases m <;> rfl
@[simp] theorem State.withContext_din (s : State) (m : Mode) (c : KeyContext) : (s.withContext m c).din = s.din := by cases m <;> rfl
@[simp] theorem State.withContext_stream (s : State) (m : Mode) (c : KeyContext) : (s.withContext m c).stream = s.stream := by cases m <;> rfl
@[simp] theorem State.withContext_draws (s : State) (m : Mode) (c : KeyContext) : (s.withContext m c).draws = s.draws := by cases m <;> rfl

/-! `State.withIv` -/

@[simp] theorem State.withIv_cmdr (s : State) (m : Mode) (iv : Block) : (s.withIv m iv).cmdr = s.cmdr := by cases m <;> rfl
@[simp] theorem State.withIv_st (s : State) (m : Mode) (iv : Block) : (s.withIv m iv).st = s.st := by cases m <;> rfl
@[simp] theorem State.withIv_err (s : State) (m : Mode) (iv : Block) : (s.withIv m iv).err = s.err := by cases m <;> rfl
@[simp] theorem State.withIv_ilen (s : State) (m : Mode) (iv : Block) : (s.withIv m iv).ilen = s.ilen := by cases m <;> rfl
@[simp] theorem State.withIv_olen (s : State) (m : Mode) (iv : Block) : (s.withIv m iv).olen = s.olen := by cases m <;> rfl
@[simp] theorem State.withIv_ibuf (s : State) (m : Mode) (iv : Block) : (s.withIv m iv).ibuf = s.ibuf := by cases m <;> rfl
@[simp] theorem State.withIv_obuf (s : State) (m : Mode) (iv : Block) : (s.withIv m iv).obuf = s.obuf := by cases m <;> rfl
@[simp] theorem State.withIv_fb (s : State) (m : Mode) (iv : Block) : (s.withIv m iv).fb = s.fb := by cases m <;> rfl
@[simp] theorem State.withIv_ks (s : State) (m : Mode) (iv : Block) : (s.withIv m iv).ks = s.ks := by cases m <;> rfl
@[simp] theorem State.withIv_xb (s : State) (m : Mode) (iv : Block) : (s.withIv m iv).xb = s.xb := by cases m <;> rfl
@[simp] theorem State.withIv_xlen (s : State) (m : Mode) (iv : Block) : (s.withIv m iv).xlen = s.xlen := by cases m <;> rfl
@[simp] theorem State.withIv_yb (s : State) (m : Mode) (iv : Block) : (s.withIv m iv).yb = s.yb := by cases m <;> rfl
@[simp] theorem State.withIv_idx (s : State) (m : Mode) (iv : Block) : (s.withIv m iv).idx = s.idx := by cases m <;> rfl
@[simp] theorem State.withIv_nblk (s : State) (m : Mode) (iv : Block) : (s.withIv m iv).nblk = s.nblk := by cases m <;> rfl
@[simp] theorem State.withIv_utag (s : State) (m : Mode) (iv : Block) : (s.withIv m iv).utag = s.utag := by cases m <;> rfl
@[simp] theorem State.withIv_keyIn (s : State) (m : Mode) (iv : Block) : (s.withIv m iv).keyIn = s.keyIn := by cases m <;> rfl
@[simp] theorem State.withIv_ivIn (s : State) (m : Mode) (iv : Block) : (s.withIv m iv).ivIn = s.ivIn := by cases m <;> rfl
@[simp] theorem State.withIv_din (s : State) (m : Mode) (iv : Block) : (s.withIv m iv).din = s.din := by cases m <;> rfl
@[simp] theorem State.withIv_stream (s : State) (m : Mode) (iv : Block) : (s.withIv m iv).stream = s.stream := by cases m <;> rfl
@[simp] theorem State.withIv_draws (s : State) (m : Mode) (iv : Block) : (s.withIv m iv).draws = s.draws := by cases m <;> rfl

/-- Writing a context changes that context and no other (R29, R159). -/
theorem State.withContext_context (s : State) (m k : Mode) (c : KeyContext) :
    (s.withContext m c).context k = if k = m then c else s.context k := by
  cases m <;> cases k <;> rfl

@[simp] theorem State.withContext_iv (s : State) (m k : Mode) (c : KeyContext) :
    (s.withContext m c).iv k = s.iv k := by
  cases m <;> cases k <;> rfl

@[simp] theorem State.withIv_context (s : State) (m k : Mode) (iv : Block) :
    (s.withIv m iv).context k = s.context k := by
  cases m <;> cases k <;> rfl

/-- Writing an IV changes that IV and no other; `CTX[ECB]` has none (R22). -/
theorem State.withIv_iv (s : State) (m k : Mode) (iv : Block) :
    (s.withIv m iv).iv k = if k = m ∧ m ≠ .ecb then some iv else s.iv k := by
  cases m <;> cases k <;> rfl

end Sys2Proof.Machine
end

