-- ==== Sys2Proof/Laws/Units.lean ====
section
/-! SUPPORT. What the units of 40_units.md give, block by block: the lemmas the engines' laws cite. -/

namespace Sys2Proof.Machine

@[simp] theorem rep_length (v : Byte) (n : Nat) : (rep v n).length = n := List.length_replicate

@[simp] theorem xorBytes_length (a b : Bytes) : (xorBytes a b).length = min a.length b.length := by
  simp [xorBytes]

@[simp] theorem trunc_length (ks : Block) (n : Nat) : (trunc ks n).length = min n 16 := by
  simp [trunc]

@[simp] theorem incCarry_length (b : Bytes) : (incCarry b).1.length = b.length := by
  induction b with
  | nil => rfl
  | cons x b ih => simp [incCarry, ih]

@[simp] theorem inc128_length (b : Bytes) : (inc128 b).length = b.length := incCarry_length b

/-- `XOR` succeeds on two byte strings of equal non-zero length (R126). -/
theorem xor_ok {a b : Bytes} (h : a.length = b.length) (h0 : a.length ≠ 0) : xor a b = .ok (xorBytes a b) := by
  simp [xor, ← h, h0]

/-- `XOR` fails on everything else (R126). -/
theorem xor_error {a b : Bytes} (h : a.length = 0 ∨ b.length = 0 ∨ a.length ≠ b.length) :
    xor a b = .error .xorLength := if_pos h

/-- `PAD` succeeds on 1 to 15 bytes (R123). -/
theorem pad_ok {b : Bytes} (h0 : b.length ≠ 0) (h1 : b.length < 16) :
    pad b = .ok (b ++ rep (BitVec.ofNat 8 (16 - b.length)) (16 - b.length)) := by
  simp [pad, h0, h1]

/-- The number of blocks is where the offsets `16*i` stop being inside the message (R27, R120). -/
theorem lt_blockCount {i len : Nat} : i < blockCount len ↔ 16 * i < len := by
  unfold blockCount; omega

theorem blockCount_pos {len : Nat} (h : len ≠ 0) : 0 < blockCount len := by
  unfold blockCount; omega

@[simp] theorem chunk_length (buf : Bytes) : (chunk buf).length = blockCount buf.length := by
  simp [chunk]

/-- Block `i` of `CHUNK` (R120). -/
theorem chunk_getElem (buf : Bytes) (i : Nat) (h : i < (chunk buf).length) :
    (chunk buf)[i] = (buf.drop (16 * i)).take 16 := by
  simp [chunk]

theorem chunk_getElem? (buf : Bytes) (i : Nat) (h : 16 * i < buf.length) :
    (chunk buf)[i]? = some ((buf.drop (16 * i)).take 16) := by
  have h' : i < (chunk buf).length := by rw [chunk_length]; exact lt_blockCount.2 h
  rw [List.getElem?_eq_getElem h', chunk_getElem]

/-- What `PREP` makes of one block: padded if short (R129). -/
def padShort (b : Bytes) : Bytes :=
  if b.length < 16 then b ++ rep (BitVec.ofNat 8 (16 - b.length)) (16 - b.length) else b

/-- Every block of a non-empty message is padded by `PREP` as `padShort` says, for only the last one can be short. -/
theorem prep_eq (msg : Bytes) (h : msg ≠ []) : prep msg = .ok ((chunk msg).map padShort) := by
  have hne : msg.length ≠ 0 := by simpa using h
  have hpos := blockCount_pos hne
  have hlen : (chunk msg).length = blockCount msg.length := chunk_length msg
  have hlast : (chunk msg).getLast? = some ((msg.drop (16 * (blockCount msg.length - 1))).take 16) := by
    rw [List.getLast?_eq_getElem?, hlen]
    exact chunk_getElem? msg _ (lt_blockCount.1 (by omega))
  have hfull : ∀ i, i + 1 < blockCount msg.length → ((msg.drop (16 * i)).take 16).length = 16 := by
    intro i hi
    have := lt_blockCount.1 hi
    simp; omega
  have hmap : (chunk msg).map padShort = (chunk msg).dropLast ++
      [padShort ((msg.drop (16 * (blockCount msg.length - 1))).take 16)] := by
    have hne' : chunk msg ≠ [] := by intro e; rw [e] at hlen; simp at hlen; omega
    conv_lhs => rw [← List.dropLast_append_getLast hne']
    rw [List.map_append]
    congr 1
    · apply List.ext_getElem
      · simp
      · intro i h1 h2
        have hi : i + 1 < blockCount msg.length := by simp at h1; omega
        have hf := hfull i hi
        rw [List.getElem_map, List.getElem_dropLast, chunk_getElem]
        unfold padShort
        rw [if_neg (by omega)]
    · have : (chunk msg).getLast hne' = (msg.drop (16 * (blockCount msg.length - 1))).take 16 := by
        have := List.getLast?_eq_some_getLast hne'
        rw [hlast] at this
        exact (Option.some.inj this).symm
      simp [this]
  have hl0 : ((msg.drop (16 * (blockCount msg.length - 1))).take 16).length ≠ 0 := by
    have := lt_blockCount.1 (show blockCount msg.length - 1 < blockCount msg.length by omega)
    simp; omega
  rw [prep, if_neg hne, padLast, hlast, hmap]
  simp only [padShort]
  split
  · next hs => rw [pad_ok hl0 hs]
  · next hs =>
    have : chunk msg = (chunk msg).dropLast ++ [(msg.drop (16 * (blockCount msg.length - 1))).take 16] := by
      rw [List.dropLast_append_getLast?]
      rw [hlast]; rfl
    rw [← this]

theorem prepBlocks_eq (msg : Bytes) (h : msg ≠ []) : prepBlocks msg = (chunk msg).map padShort := by
  simp [prepBlocks, prep_eq msg h]

theorem padShort_length {b : Bytes} (h1 : b.length ≤ 16) : (padShort b).length = 16 := by
  unfold padShort
  split
  · simp; omega
  · omega

theorem chain_length (f : Bytes → Bytes → Bytes × Bytes) (fb : Bytes) (xs : List Bytes) :
    (chain f fb xs).length = xs.length := by
  induction xs generalizing fb with
  | nil => rfl
  | cons x xs ih => simp [chain, ih]

/-- The feedback before block `i` of a chain. -/
def chainFb (f : Bytes → Bytes → Bytes × Bytes) (fb : Bytes) : List Bytes → Nat → Bytes
  | _, 0 => fb
  | [], _ + 1 => fb
  | x :: xs, i + 1 => chainFb f (f fb x).2 xs i

@[simp] theorem chainFb_zero (f : Bytes → Bytes → Bytes × Bytes) (fb : Bytes) (xs : List Bytes) :
    chainFb f fb xs 0 = fb := by
  cases xs <;> rfl

/-- Output block `i` of a chain. -/
theorem chain_getElem (f : Bytes → Bytes → Bytes × Bytes) (fb : Bytes) (xs : List Bytes) (i : Nat)
    (h : i < xs.length) (h' : i < (chain f fb xs).length) :
    (chain f fb xs)[i] = (f (chainFb f fb xs i) xs[i]).1 := by
  induction xs generalizing fb i with
  | nil => simp at h
  | cons x xs ih =>
    cases i with
    | zero => rfl
    | succ i =>
      have hi : i < xs.length := by simpa using h
      simpa [chain, chainFb] using ih (f fb x).2 i hi (by rw [chain_length]; exact hi)

/-- The feedback after block `i` of a chain. -/
theorem chainFb_succ (f : Bytes → Bytes → Bytes × Bytes) (fb : Bytes) (xs : List Bytes) (i : Nat)
    (h : i < xs.length) :
    chainFb f fb xs (i + 1) = (f (chainFb f fb xs i) xs[i]).2 := by
  induction xs generalizing fb i with
  | nil => simp at h
  | cons x xs ih =>
    cases i with
    | zero => simp [chainFb]
    | succ i => simpa [chainFb] using ih (f fb x).2 i (by simpa using h)

/-- Block `i` of a chain, by the block it comes from. -/
theorem chain_get? {f : Bytes → Bytes → Bytes × Bytes} {fb : Bytes} {xs : List Bytes} {i : Nat} {x : Bytes}
    (h : xs[i]? = some x) : (chain f fb xs)[i]? = some (f (chainFb f fb xs i) x).1 := by
  obtain ⟨hi, rfl⟩ := List.getElem?_eq_some_iff.1 h
  have h' : i < (chain f fb xs).length := by rw [chain_length]; exact hi
  rw [List.getElem?_eq_getElem h', chain_getElem f fb xs i hi h']

/-- The feedback after block `i` of a chain, by that block. -/
theorem chainFb_get? {f : Bytes → Bytes → Bytes × Bytes} {fb : Bytes} {xs : List Bytes} {i : Nat} {x : Bytes}
    (h : xs[i]? = some x) : chainFb f fb xs (i + 1) = (f (chainFb f fb xs i) x).2 := by
  obtain ⟨hi, rfl⟩ := List.getElem?_eq_some_iff.1 h
  exact chainFb_succ f fb xs i hi

/-- Block `i` of a list whose last block is unpadded (R171, R191). -/
theorem unpadLast_get? {bs : List Bytes} {i : Nat} {b : Bytes} (h : bs[i]? = some b) :
    (unpadLast bs)[i]? = some (if i + 1 = bs.length then (unpadOrRaw b).1 else b) := by
  have hi := (List.getElem?_eq_some_iff.1 h).1
  have hne : bs ≠ [] := by rintro rfl; simp at hi
  rw [unpadLast, List.getLast?_eq_some_getLast hne]
  simp only
  split
  · next e =>
    have : i = bs.length - 1 := by omega
    subst this
    rw [List.getElem?_append_right (by simp)]
    have : bs.getLast hne = b := by
      rw [List.getLast_eq_getElem]; exact Option.some.inj ((List.getElem?_eq_getElem _).symm.trans h)
    simp [this]
  · next e =>
    rw [List.getElem?_append_left (by simp; omega), List.getElem?_dropLast, if_pos (by omega), h]

@[simp] theorem unpadLast_length (bs : List Bytes) : (unpadLast bs).length = bs.length := by
  rw [unpadLast]; split
  · next h => rw [List.getLast?_eq_none_iff] at h; simp [h]
  · next b h =>
    have : bs ≠ [] := by rintro rfl; simp at h
    have := List.length_pos_iff.2 this
    simp; omega

end Sys2Proof.Machine
end

