-- ==== Sys2Proof/Laws/Ops.lean ====
section
/-! SUPPORT. One lemma per shared operation that says all it can do, and the loop rule of the BLOCK phase
(10_state.md R28): the laws the engines' proofs cite instead of unfolding the operations. -/

namespace Sys2Proof.Machine

/-! ### What a block step leaves alone -/

/-- The state with every register a block step may write blanked: two states with the same frame differ at most in
`OBUF`, `FB`, `KS`, `XB`, `XLEN`, `YB`, `IDX`, `UTAG`. -/
def State.frame (s : State) : State :=
  { s with obuf := [], fb := [], ks := Vector.replicate 16 0, xb := [], xlen := 0, yb := [], idx := 0, utag := .padded }

theorem State.frame_context {s t : State} (h : s.frame = t.frame) (m : Mode) : s.context m = t.context m := by
  have e : s.frame.context m = t.frame.context m := by rw [h]
  cases m <;> exact e

theorem State.frame_iv {s t : State} (h : s.frame = t.frame) (m : Mode) : s.iv m = t.iv m := by
  have e : s.frame.iv m = t.frame.iv m := by rw [h]
  cases m <;> exact e

theorem State.frame_sameContexts {s t : State} (h : t.frame = s.frame) : SameContexts s t :=
  ⟨congrArg (·.ecb) h, congrArg (·.cbc) h, congrArg (·.cfb) h, congrArg (·.ofb) h, congrArg (·.ctr) h⟩

theorem State.frame_sameHostSide {s t : State} (h : t.frame = s.frame) : SameHostSide s t :=
  ⟨congrArg (·.cmdr) h, congrArg (·.keyIn) h, congrArg (·.ivIn) h, congrArg (·.din) h, congrArg (·.stream) h⟩

theorem State.frame_ilen {s t : State} (h : s.frame = t.frame) : s.ilen = t.ilen := congrArg (·.ilen) h

theorem State.frame_ibuf {s t : State} (h : s.frame = t.frame) : s.ibuf = t.ibuf := congrArg (·.ibuf) h

theorem State.frame_nblk {s t : State} (h : s.frame = t.frame) : s.nblk = t.nblk := congrArg (·.nblk) h

theorem State.frame_err {s t : State} (h : s.frame = t.frame) : s.err = t.err := congrArg (·.err) h

@[simp] theorem State.latchBlock_frame (s : State) (v : Bytes) : (s.latchBlock v).frame = s.frame := rfl

@[simp] theorem State.encrypt_frame (s : State) (p : Primitive) (m : Mode) (b : Bytes) :
    (s.encrypt p m b).frame = s.frame := rfl

@[simp] theorem State.decrypt_frame (s : State) (p : Primitive) (m : Mode) (b : Bytes) :
    (s.decrypt p m b).frame = s.frame := rfl

@[simp] theorem State.emit_frame (s : State) (y : Bytes) : (s.emit y).frame = s.frame := rfl

@[simp] theorem State.feedback_frame (s : State) (v : Bytes) : (s.feedback v).frame = s.frame := rfl

@[simp] theorem State.emitUnpadded_frame (s : State) (y : Bytes) : (s.emitUnpadded y).frame = s.frame := by
  unfold State.emitUnpadded; split <;> rfl

/-! ### The pieces of a block step -/

/-- `XB[0 ..< XLEN]` is what was latched, for a block of up to 16 bytes (R25). -/
@[simp] theorem State.latchBlock_block (s : State) (v : Bytes) (h : v.length ≤ 16) : (s.latchBlock v).block = v := by
  have h32 : v.length % 32 = v.length := Nat.mod_eq_of_lt (by omega)
  simp [State.block, h32]

theorem State.latchBlock_xlen_toNat (s : State) (v : Bytes) (h : v.length ≤ 16) :
    (s.latchBlock v).xlen.toNat = v.length := by
  have h32 : v.length % 32 = v.length := Nat.mod_eq_of_lt (by omega)
  simp [h32]

@[simp] theorem State.encrypt_block (s : State) (p : Primitive) (m : Mode) (b : Bytes) :
    (s.encrypt p m b).block = s.block := rfl

@[simp] theorem State.decrypt_block (s : State) (p : Primitive) (m : Mode) (b : Bytes) :
    (s.decrypt p m b).block = s.block := rfl

@[simp] theorem State.emit_block (s : State) (y : Bytes) : (s.emit y).block = s.block := rfl

@[simp] theorem State.emitUnpadded_block (s : State) (y : Bytes) : (s.emitUnpadded y).block = s.block := by
  unfold State.emitUnpadded; split <;> rfl

@[simp] theorem State.emitUnpadded_fb (s : State) (y : Bytes) : (s.emitUnpadded y).fb = s.fb := by
  unfold State.emitUnpadded; split <;> rfl

@[simp] theorem State.emitUnpadded_xb (s : State) (y : Bytes) : (s.emitUnpadded y).xb = s.xb := by
  unfold State.emitUnpadded; split <;> rfl

@[simp] theorem State.emitUnpadded_xlen (s : State) (y : Bytes) : (s.emitUnpadded y).xlen = s.xlen := by
  unfold State.emitUnpadded; split <;> rfl

@[simp] theorem State.emitUnpadded_ks (s : State) (y : Bytes) : (s.emitUnpadded y).ks = s.ks := by
  unfold State.emitUnpadded; split <;> rfl

@[simp] theorem State.emitUnpadded_idx (s : State) (y : Bytes) : (s.emitUnpadded y).idx = s.idx := by
  unfold State.emitUnpadded; split <;> rfl

/-- The output of `emitUnpadded` (R26, R125): the last block unpadded or raw, any other as it is. -/
def State.unpadded (s : State) (y : Bytes) : Bytes := if s.idx + 1 = s.nblk then (unpadOrRaw y).1 else y

theorem State.emitUnpadded_yb (s : State) (y : Bytes) : (s.emitUnpadded y).yb = s.unpadded y := by
  unfold State.emitUnpadded State.unpadded; split <;> rfl

theorem State.emitUnpadded_obuf (s : State) (y : Bytes) :
    (s.emitUnpadded y).obuf = Memory.writeBytes s.obuf (blockOffset s.idx) (s.unpadded y) := by
  unfold State.emitUnpadded State.unpadded; split <;> rfl

theorem State.emitUnpadded_utag (s : State) (y : Bytes) :
    (s.emitUnpadded y).utag = if s.idx + 1 = s.nblk then (unpadOrRaw y).2 else s.utag := by
  unfold State.emitUnpadded; split <;> rfl

/-- A `MemRead` inside `IBUF` answers with those bytes of the message (R62). -/
theorem State.memRead_ok {s : State} {msg : Bytes} {a n : Nat} (hbuf : s.ibuf = Memory.holding 0 msg)
    (hlen : s.ilen = msg.length) (hn : 1 ≤ n) (h : a + n ≤ msg.length) :
    s.memRead a n = .ok ((msg.drop a).take n) := by
  have hr := Memory.readBytes_holding n msg a 0 h
  rw [Nat.zero_add] at hr
  rw [State.memRead, hlen, hbuf, if_pos ⟨hn, h⟩, hr]

/-- Cutting block `IDX` of the message never fails while `IDX < NBLK` (R25, R62, R120). -/
theorem State.fetchBlock_ok {s : State} {msg : Bytes} (hbuf : s.ibuf = Memory.holding 0 msg)
    (hlen : s.ilen = msg.length) (h : s.idx < blockCount msg.length) :
    s.fetchBlock = .ok (s.latchBlock ((msg.drop (16 * s.idx)).take 16)) := by
  have h16 := lt_blockCount.1 h
  have hread := State.memRead_ok (a := blockOffset s.idx) (n := blockLength s.ilen s.idx) hbuf hlen
    (by unfold blockLength; omega) (by unfold blockLength blockOffset; omega)
  have htake : (msg.drop (blockOffset s.idx)).take (blockLength s.ilen s.idx)
      = (msg.drop (16 * s.idx)).take 16 := by
    rw [blockOffset, blockLength, hlen, List.take_eq_take_iff, List.length_drop]
    omega
  rw [State.fetchBlock, hread]
  simp only [htake]

/-- The padding step on a block just cut (R129, R317): never fails, and leaves the block `padShort` gives. -/
theorem State.padBlock_ok (s : State) (v : Bytes) (h0 : v.length ≠ 0) (h : v.length ≤ 16) :
    (s.latchBlock v).padBlock = .ok (s.latchBlock (padShort v)) := by
  rw [State.padBlock, State.latchBlock_xlen_toNat s v h, State.latchBlock_block s v h, padShort]
  split
  · next hs => rw [pad_ok h0 hs]; rfl
  · rfl

/-! ### The BLOCK phase -/

/-- The loop rule: an invariant indexed by the number of blocks done, kept by every block step, holds after the loop, and
the loop does not fail. -/
theorem blockLoop_rule {blockStep : State → Except Fault State} (I : Nat → State → Prop) (n : Nat)
    (hstep : ∀ i s, i < n → I i s → ∃ t, blockStep s = .ok t ∧ I (i + 1) { t with idx := t.idx + 1 })
    (s : State) (h : I 0 s) : ∃ t, blockLoop blockStep n s = .ok t ∧ I n t := by
  have gen : ∀ k i (s : State), i + k = n → I i s → ∃ t, blockLoop blockStep k s = .ok t ∧ I n t := by
    intro k
    induction k with
    | zero =>
      intro i s hik hI
      have hi : i = n := by omega
      exact ⟨s, rfl, hi ▸ hI⟩
    | succ k ih =>
      intro i s hik hI
      obtain ⟨t, ht, hI'⟩ := hstep i s (by omega) hI
      obtain ⟨u, hu, hIn⟩ := ih (i + 1) _ (by omega) hI'
      exact ⟨u, by rw [blockLoop, ht]; exact hu, hIn⟩
  exact gen n 0 s (by omega) h

/-- The state after `i` blocks of a command that started its BLOCK phase in `s₁`, whose output blocks are `out` and
whose feedback before block `i` is `fbs i`. -/
structure LoopAt (s₁ : State) (out : List Bytes) (fbs : Nat → Bytes) (i : Nat) (u : State) : Prop where
  frame : u.frame = s₁.frame
  idx : u.idx = i
  fb : u.fb = fbs i
  obuf : u.obuf = Memory.holding 0 (out.take i).flatten
  yb : ∀ j, i = j + 1 → out[j]? = some u.yb

/-- What a block step has to do for block `i`. -/
structure StepAt (s₁ : State) (out : List Bytes) (fbs : Nat → Bytes) (i : Nat) (u t : State) : Prop where
  frame : t.frame = s₁.frame
  idx : t.idx = i
  fb : t.fb = fbs (i + 1)
  yb : out[i]? = some t.yb
  obuf : t.obuf = Memory.writeBytes u.obuf (blockOffset i) t.yb

theorem flatten_take_length {out : List Bytes} {n : Nat} (hn : out.length = n)
    (hfull : ∀ j y, j + 1 < n → out[j]? = some y → y.length = 16) (i : Nat) (hi : i < n) :
    (out.take i).flatten.length = 16 * i := by
  induction i with
  | zero => simp
  | succ i ih =>
    have hlt : i < out.length := by omega
    have h16 := hfull i out[i] (by omega) (List.getElem?_eq_getElem hlt)
    rw [List.take_add_one, List.getElem?_eq_getElem hlt]
    simp only [Option.toList_some, List.flatten_append, List.length_append, ih (by omega)]
    simp [h16]; omega

/-- The BLOCK phase of a command: if every block step does its part, the loop ends after the last block with the output
blocks in `OBUF`. Every output block but the last has 16 bytes. -/
theorem blockLoop_run {blockStep : State → Except Fault State} {s₁ : State} {out : List Bytes} {fbs : Nat → Bytes}
    {n : Nat} (hn : out.length = n) (hfull : ∀ j y, j + 1 < n → out[j]? = some y → y.length = 16)
    (hidx : s₁.idx = 0) (hfb : s₁.fb = fbs 0) (hobuf : s₁.obuf = [])
    (hstep : ∀ i u, i < n → LoopAt s₁ out fbs i u → ∃ t, blockStep u = .ok t ∧ StepAt s₁ out fbs i u t) :
    ∃ t, blockLoop blockStep n s₁ = .ok t ∧ LoopAt s₁ out fbs n t := by
  refine blockLoop_rule (LoopAt s₁ out fbs) n ?_ s₁ ⟨rfl, hidx, hfb, by simp [hobuf], by intro j h; omega⟩
  intro i u hi hu
  obtain ⟨t, ht, hs⟩ := hstep i u hi hu
  refine ⟨t, ht, hs.frame, by simp [hs.idx], hs.fb, ?_, ?_⟩
  · have hl := flatten_take_length hn hfull i hi
    have hlt : i < out.length := by omega
    have hy : out[i] = t.yb := Option.some.inj ((List.getElem?_eq_getElem hlt).symm.trans hs.yb)
    have hw := Memory.writeBytes_holding t.yb (out.take i).flatten 0
    rw [Nat.zero_add, hl] at hw
    have : t.obuf = Memory.holding 0 ((out.take i).flatten ++ t.yb) := by
      rw [hs.obuf, hu.obuf, blockOffset, hw]
    rw [List.take_add_one, List.getElem?_eq_getElem hlt, hy]
    simpa using this
  · intro j hj
    have : i = j := by omega
    subst this
    exact hs.yb

/-! ### Whole commands -/

/-- An `ENC` or `DEC` on an invalid context raises `NoEngine`, before its operand is looked at (R278, R283). -/
theorem runMessage_noEngine {m : Mode} {check : Nat → Option ErrName} {blockStep : State → Except Fault State}
    {outLen : State → Nat} {s : State} (h : (s.context m).valid = false) :
    runMessage m check blockStep outLen s = .next (s.start.acceptMessage.raise .noEngine).dropMessage := by
  simp [runMessage, h]

/-- An `ENC` or `DEC` on a valid context whose length check fails raises that error (R283). -/
theorem runMessage_checked {m : Mode} {check : Nat → Option ErrName} {blockStep : State → Except Fault State}
    {outLen : State → Nat} {s : State} {e : ErrName} (h : (s.context m).valid = true)
    (hc : check s.din.length = some e) :
    runMessage m check blockStep outLen s = .next (s.start.acceptMessage.raise e).dropMessage := by
  simp [runMessage, h, hc]

/-- What a command that raises leaves (R285). -/
theorem messageFailed_of_raise (s : State) (e : ErrName) :
    MessageFailed s (s.start.acceptMessage.raise e).dropMessage e where
  st := rfl
  err := rfl
  olen := rfl
  obuf := rfl
  ibuf := rfl
  contexts := ⟨rfl, rfl, rfl, rfl, rfl⟩
  blockRegisters := ⟨rfl, rfl, rfl, rfl, rfl, rfl, rfl⟩
  hostSide := ⟨rfl, rfl, rfl, rfl, rfl⟩

/-- The state in which the BLOCK phase of a command on context `m` starts (R28). -/
def State.loaded (s : State) (m : Mode) : State := (s.start.acceptMessage).load m

@[simp] theorem State.loaded_ilen (s : State) (m : Mode) : (s.loaded m).ilen = s.din.length := rfl
@[simp] theorem State.loaded_ibuf (s : State) (m : Mode) : (s.loaded m).ibuf = Memory.holding 0 s.din := rfl
@[simp] theorem State.loaded_obuf (s : State) (m : Mode) : (s.loaded m).obuf = [] := rfl
@[simp] theorem State.loaded_idx (s : State) (m : Mode) : (s.loaded m).idx = 0 := rfl
@[simp] theorem State.loaded_nblk (s : State) (m : Mode) : (s.loaded m).nblk = blockCount s.din.length := rfl
@[simp] theorem State.loaded_context (s : State) (m k : Mode) : (s.loaded m).context k = s.context k := by
  cases k <;> rfl
@[simp] theorem State.loaded_iv (s : State) (m k : Mode) : (s.loaded m).iv k = s.iv k := by
  cases k <;> rfl

theorem State.loaded_fb (s : State) {m : Mode} {iv : Block} (h : s.iv m = some iv) : (s.loaded m).fb = iv.toList := by
  unfold State.loaded
  exact State.load_fb_of_iv _ (by simpa using h)

/-- An `ENC` or `DEC` whose checks pass and whose every block step does its part completes with the concatenated output
blocks (R28). -/
theorem runMessage_ok {m : Mode} {check : Nat → Option ErrName} {blockStep : State → Except Fault State}
    {outLen : State → Nat} {s : State} {out : List Bytes} {fbs : Nat → Bytes}
    (hv : (s.context m).valid = true) (hc : check s.din.length = none)
    (hn : out.length = blockCount s.din.length)
    (hfull : ∀ j y, j + 1 < blockCount s.din.length → out[j]? = some y → y.length = 16)
    (hfb : (s.loaded m).fb = fbs 0)
    (hstep : ∀ i u, i < blockCount s.din.length → LoopAt (s.loaded m) out fbs i u →
      ∃ t, blockStep u = .ok t ∧ StepAt (s.loaded m) out fbs i u t)
    (hout : ∀ u, LoopAt (s.loaded m) out fbs (blockCount s.din.length) u → outLen u = out.flatten.length) :
    ∃ u, blockLoop blockStep (blockCount s.din.length) (s.loaded m) = .ok u ∧
      LoopAt (s.loaded m) out fbs (blockCount s.din.length) u ∧
      runMessage m check blockStep outLen s = .next (u.succeed out.flatten.length).dropMessage.dropBlocks ∧
      Completed s (u.succeed out.flatten.length).dropMessage.dropBlocks out.flatten := by
  obtain ⟨u, hu, hL⟩ := blockLoop_run hn hfull rfl hfb rfl hstep
  refine ⟨u, hu, hL, ?_, ?_⟩
  · have hval : ((s.start.acceptMessage).context m).valid = true := by simpa using hv
    rw [← hout u hL]
    simp only [runMessage, hval, if_true, State.acceptMessage_ilen, State.start_din, hc]
    rw [show (s.start.acceptMessage).load m = s.loaded m from rfl, hu]
  · have hs := State.frame_sameContexts hL.frame
    have hh := State.frame_sameHostSide hL.frame
    have hob := hL.obuf
    rw [← hn, List.take_length] at hob
    exact {
      st := rfl
      err := (State.frame_err hL.frame).trans rfl
      olen := rfl
      obuf := hob
      ibuf := rfl
      contexts := ⟨hs.ecb, hs.cbc, hs.cfb, hs.ofb, hs.ctr⟩
      hostSide := ⟨hh.cmdr, hh.keyIn, hh.ivIn, hh.din, hh.stream⟩ }

/-! ### Construction -/

@[simp] theorem KeyLen.ofLength_bytes (kl : KeyLen) : KeyLen.ofLength kl.bytes = some kl := by cases kl <;> rfl

@[simp] theorem blockOf_toList (b : Block) : blockOf b.toList = some b := by
  have h : b.toList.length = 16 := by simp
  unfold blockOf; rw [dif_pos h]; rfl

/-- A length is a key length or it is none (R150). -/
theorem KeyLen.ofLength_cases (n : Nat) :
    (KeyLen.ofLength n = none ∧ n ≠ 16 ∧ n ≠ 24 ∧ n ≠ 32) ∨ ∃ k, KeyLen.ofLength n = some k ∧ n = KeyLen.bytes k := by
  unfold KeyLen.ofLength
  by_cases h1 : n = 16
  · exact .inr ⟨.k16, by simp [h1], h1⟩
  by_cases h2 : n = 24
  · exact .inr ⟨.k24, by simp [h2], h2⟩
  by_cases h3 : n = 32
  · exact .inr ⟨.k32, by simp [h3], h3⟩
  exact .inl (by simp [h1, h2, h3])

/-- What IVIN is to a mode (R150): not looked at, 16 bytes, or wrong. -/
theorem ivOperand_cases (m : Mode) (iv : Option Bytes) :
    (m = .ecb ∧ ivOperand m iv = .ignored) ∨
    (m ≠ .ecb ∧ ∃ b : Block, iv = some b.toList ∧ ivOperand m iv = .given b) ∨
    (m ≠ .ecb ∧ iv.map List.length ≠ some 16 ∧ ivOperand m iv = .wrong) := by
  by_cases hm : m = .ecb
  · subst hm; exact .inl ⟨rfl, rfl⟩
  right
  cases iv with
  | none => exact .inr ⟨hm, by simp, by cases m <;> first | exact absurd rfl hm | rfl⟩
  | some b =>
    by_cases hb : b.length = 16
    · have e : blockOf b = some ⟨⟨b⟩, hb⟩ := by unfold blockOf; rw [dif_pos hb]
      exact .inl ⟨hm, ⟨⟨b⟩, hb⟩, rfl, by cases m <;> first | exact absurd rfl hm | simp [ivOperand, e]⟩
    · have e : blockOf b = none := by unfold blockOf; rw [dif_neg hb]
      exact .inr ⟨hm, by simp [hb], by cases m <;> first | exact absurd rfl hm | simp [ivOperand, e]⟩

/-- Everything `construct` can do (R150): one of the two failures, or an installed context, with or without an IV. -/
theorem State.construct_cases (m : Mode) (s : State) :
    (s.construct m = (s.start.invalidate m).raise .invalidKeyLength ∧
      s.keyIn.length ≠ 16 ∧ s.keyIn.length ≠ 24 ∧ s.keyIn.length ≠ 32) ∨
    ∃ kl : KeyLen, s.keyIn.length = kl.bytes ∧
      ((m = .ecb ∧ s.construct m = (s.start.install m kl).succeed 0) ∨
       (m ≠ .ecb ∧ ∃ b : Block, s.ivIn = some b.toList ∧ s.construct m = ((s.start.install m kl).withIv m b).succeed 0) ∨
       (m ≠ .ecb ∧ s.ivIn.map List.length ≠ some 16 ∧
        s.construct m = (s.start.invalidate m).raise .invalidIVLength)) := by
  rcases KeyLen.ofLength_cases s.keyIn.length with ⟨h, hk⟩ | ⟨kl, h, hk⟩
  · exact .inl ⟨by simp [State.construct, h], hk⟩
  · refine .inr ⟨kl, hk, ?_⟩
    rcases ivOperand_cases m s.ivIn with ⟨a, b⟩ | ⟨a, iv, b, c⟩ | ⟨a, b, c⟩
    · exact .inl ⟨a, by simp [State.construct, h, b]⟩
    · exact .inr (.inl ⟨a, iv, b, by simp [State.construct, h, c]⟩)
    · exact .inr (.inr ⟨a, b, by simp [State.construct, h, c]⟩)

end Sys2Proof.Machine
end

