-- ==== Sys2Proof/Laws/Engines.lean ====
section
/-! SUPPORT. One spec lemma per block step: on a state in the BLOCK phase it does not fail, and this is the state it
leaves (42_ecb.md R170, R171, 43_cbc.md R190, R191, 44_cfb.md R210, R211, 45_ofb.md R230, R231, 46_ctr.md R250, R251). -/

namespace Sys2Proof.Machine

/-- Block `i` of a message, as the chunker cuts it (R120). -/
def messageBlock (msg : Bytes) (i : Nat) : Bytes := (msg.drop (16 * i)).take 16

theorem messageBlock_length_le (msg : Bytes) (i : Nat) : (messageBlock msg i).length ≤ 16 := by
  simp [messageBlock]

theorem messageBlock_length_ne_zero {msg : Bytes} {i : Nat} (h : i < blockCount msg.length) :
    (messageBlock msg i).length ≠ 0 := by
  have := lt_blockCount.1 h
  simp [messageBlock]; omega

/-- A state of the BLOCK phase on message `msg` that still has a block to go. -/
structure InBlocks (msg : Bytes) (u : State) : Prop where
  ibuf : u.ibuf = Memory.holding 0 msg
  ilen : u.ilen = msg.length
  idx : u.idx < blockCount msg.length

variable {p : Primitive} {msg : Bytes} {u : State}

theorem InBlocks.fetch (h : InBlocks msg u) : u.fetchBlock = .ok (u.latchBlock (messageBlock msg u.idx)) :=
  State.fetchBlock_ok h.ibuf h.ilen h.idx

theorem InBlocks.pad (h : InBlocks msg u) :
    (u.latchBlock (messageBlock msg u.idx)).padBlock = .ok (u.latchBlock (padShort (messageBlock msg u.idx))) :=
  State.padBlock_ok u _ (messageBlock_length_ne_zero h.idx) (messageBlock_length_le msg u.idx)

theorem InBlocks.block_padded (_ : InBlocks msg u) :
    (u.latchBlock (padShort (messageBlock msg u.idx))).block = padShort (messageBlock msg u.idx) :=
  State.latchBlock_block u _ (Nat.le_of_eq (padShort_length (messageBlock_length_le msg u.idx)))

theorem InBlocks.block_cut (_ : InBlocks msg u) :
    (u.latchBlock (messageBlock msg u.idx)).block = messageBlock msg u.idx :=
  State.latchBlock_block u _ (messageBlock_length_le msg u.idx)

theorem encEcbBlock_ok (h : InBlocks msg u) :
    encEcbBlock p u = .ok (((u.latchBlock (padShort (messageBlock msg u.idx))).encrypt p .ecb
      (padShort (messageBlock msg u.idx))).emit
        (p.enc (u.context .ecb).primKey (padShort (messageBlock msg u.idx))).toList) := by
  simp only [encEcbBlock, h.fetch, h.pad, bind, Except.bind, pure, Except.pure, h.block_padded]
  rfl

theorem decEcbBlock_ok (h : InBlocks msg u) :
    decEcbBlock p u = .ok (((u.latchBlock (messageBlock msg u.idx)).decrypt p .ecb
      (messageBlock msg u.idx)).emitUnpadded
        (p.dec (u.context .ecb).primKey (messageBlock msg u.idx)).toList) := by
  simp only [decEcbBlock, h.fetch, bind, Except.bind, pure, Except.pure, h.block_cut]
  rfl

theorem encCbcBlock_ok (h : InBlocks msg u) (hfb : u.fb.length = 16) :
    encCbcBlock p u = .ok ((((u.latchBlock (padShort (messageBlock msg u.idx))).encrypt p .cbc
      (xorBytes u.fb (padShort (messageBlock msg u.idx)))).emit
        (p.enc (u.context .cbc).primKey (xorBytes u.fb (padShort (messageBlock msg u.idx)))).toList).feedback
          (p.enc (u.context .cbc).primKey (xorBytes u.fb (padShort (messageBlock msg u.idx)))).toList) := by
  have hx : xor u.fb (padShort (messageBlock msg u.idx)) = .ok (xorBytes u.fb (padShort (messageBlock msg u.idx))) :=
    xor_ok (by rw [hfb, padShort_length (messageBlock_length_le msg u.idx)]) (by omega)
  simp only [encCbcBlock, h.fetch, h.pad, bind, Except.bind, pure, Except.pure, h.block_padded, State.latchBlock_fb,
    hx, unitResult]
  rfl

theorem decCbcBlock_ok (h : InBlocks msg u) (hfb : u.fb.length = 16) :
    decCbcBlock p u = .ok ((((u.latchBlock (messageBlock msg u.idx)).decrypt p .cbc
      (messageBlock msg u.idx)).emitUnpadded
        (xorBytes u.fb (p.dec (u.context .cbc).primKey (messageBlock msg u.idx)).toList)).feedback
          (messageBlock msg u.idx)) := by
  have hx : xor u.fb (p.dec (u.context .cbc).primKey (messageBlock msg u.idx)).toList
      = .ok (xorBytes u.fb (p.dec (u.context .cbc).primKey (messageBlock msg u.idx)).toList) :=
    xor_ok (by simp [hfb]) (by omega)
  simp only [decCbcBlock, h.fetch, bind, Except.bind, pure, Except.pure, h.block_cut, State.decrypt_fb,
    State.latchBlock_fb, State.decrypt_ks, State.latchBlock_context, hx, unitResult, State.emitUnpadded_block,
    State.decrypt_block]

/-- The keystream exclusive-or of a data block never fails (R135 b). -/
theorem xor_trunc_ok {x : Bytes} (ks : Block) (h0 : x.length ≠ 0) (h : x.length ≤ 16) :
    xor x (trunc ks x.length) = .ok (xorBytes x (trunc ks x.length)) :=
  xor_ok (by simp [Nat.min_eq_left h]) h0

/-- The state a keystream block step of mode `m` leaves (R212, R232, R252), before its feedback. -/
def State.afterKeystream (u : State) (p : Primitive) (m : Mode) (x : Bytes) : State :=
  ((u.latchBlock x).encrypt p m u.fb).emit (xorBytes x (trunc (p.enc (u.context m).primKey u.fb) x.length))

theorem encCfbBlock_ok (h : InBlocks msg u) :
    encCfbBlock p u = .ok ((u.afterKeystream p .cfb (messageBlock msg u.idx)).feedback
      (xorBytes (messageBlock msg u.idx)
        (trunc (p.enc (u.context .cfb).primKey u.fb) (messageBlock msg u.idx).length))) := by
  simp only [encCfbBlock, h.fetch, bind, Except.bind, pure, Except.pure, State.encrypt_block, h.block_cut,
    State.latchBlock_fb, State.encrypt_ks, State.latchBlock_context,
    xor_trunc_ok _ (messageBlock_length_ne_zero h.idx) (messageBlock_length_le msg u.idx), unitResult]
  rfl

theorem decCfbBlock_ok (h : InBlocks msg u) :
    decCfbBlock p u = .ok ((u.afterKeystream p .cfb (messageBlock msg u.idx)).feedback (messageBlock msg u.idx)) := by
  simp only [decCfbBlock, h.fetch, bind, Except.bind, pure, Except.pure, State.encrypt_block, h.block_cut,
    State.latchBlock_fb, State.encrypt_ks, State.latchBlock_context, State.emit_block,
    xor_trunc_ok _ (messageBlock_length_ne_zero h.idx) (messageBlock_length_le msg u.idx), unitResult]
  rfl

theorem encOfbBlock_ok (h : InBlocks msg u) :
    encOfbBlock p u = .ok ((u.afterKeystream p .ofb (messageBlock msg u.idx)).feedback
      (p.enc (u.context .ofb).primKey u.fb).toList) := by
  simp only [encOfbBlock, h.fetch, bind, Except.bind, pure, Except.pure, State.encrypt_block, h.block_cut,
    State.latchBlock_fb, State.encrypt_ks, State.latchBlock_context,
    xor_trunc_ok _ (messageBlock_length_ne_zero h.idx) (messageBlock_length_le msg u.idx), unitResult]
  rfl

theorem decOfbBlock_ok (h : InBlocks msg u) :
    decOfbBlock p u = .ok ((u.afterKeystream p .ofb (messageBlock msg u.idx)).feedback
      (p.enc (u.context .ofb).primKey u.fb).toList) :=
  encOfbBlock_ok h

theorem encCtrBlock_ok (h : InBlocks msg u) :
    encCtrBlock p u = .ok ((u.afterKeystream p .ctr (messageBlock msg u.idx)).feedback (inc128 u.fb)) := by
  simp only [encCtrBlock, h.fetch, bind, Except.bind, pure, Except.pure, State.encrypt_block, h.block_cut,
    State.latchBlock_fb, State.encrypt_ks, State.latchBlock_context,
    xor_trunc_ok _ (messageBlock_length_ne_zero h.idx) (messageBlock_length_le msg u.idx), unitResult]
  rfl

theorem decCtrBlock_ok (h : InBlocks msg u) :
    decCtrBlock p u = .ok ((u.afterKeystream p .ctr (messageBlock msg u.idx)).feedback (inc128 u.fb)) :=
  encCtrBlock_ok h

/-- Block `i` of `CHUNK`. -/
theorem chunk_block {msg : Bytes} {i : Nat} (h : i < blockCount msg.length) :
    (chunk msg)[i]? = some (messageBlock msg i) := by
  rw [chunk_getElem? _ _ (lt_blockCount.1 h)]; rfl

@[simp] theorem prepBlocks_length {msg : Bytes} : (prepBlocks msg).length = blockCount msg.length := by
  by_cases hne : msg = []
  · subst hne; rfl
  · simp [prepBlocks_eq _ hne]

/-- Block `i` of `PREP` (R129). -/
theorem prep_block {msg : Bytes} {i : Nat} (h : i < blockCount msg.length) :
    (prepBlocks msg)[i]? = some (padShort (messageBlock msg i)) := by
  have hne : msg ≠ [] := by rintro rfl; simp [blockCount] at h
  rw [prepBlocks_eq _ hne, List.getElem?_map, chunk_block h]; rfl

/-- A block that is not the last is full. -/
theorem messageBlock_length {msg : Bytes} {i : Nat} (h : i + 1 < blockCount msg.length) :
    (messageBlock msg i).length = 16 := by
  have := lt_blockCount.1 h
  simp [messageBlock]; omega

/-- The states of a BLOCK phase are in it. -/
theorem LoopAt.inBlocks {s u : State} {m : Mode} {out : List Bytes} {fbs : Nat → Bytes} {i : Nat}
    (h : LoopAt (s.loaded m) out fbs i u) (hi : i < blockCount s.din.length) : InBlocks s.din u :=
  ⟨State.frame_ibuf h.frame, State.frame_ilen h.frame, by rw [h.idx]; exact hi⟩

/-- No block step changes a context. -/
theorem LoopAt.context {s u : State} {m k : Mode} {out : List Bytes} {fbs : Nat → Bytes} {i : Nat}
    (h : LoopAt (s.loaded m) out fbs i u) : u.context k = s.context k := by
  rw [State.frame_context h.frame, State.loaded_context]

end Sys2Proof.Machine
end

