-- ==== Sys2Proof/Laws/Lanes.lean ====
section
/-! SUPPORT. What the events of Machine/Lanes.lean can do, and the facts about a BLOCK phase that the claims about
requests in flight cite (70_reset_and_hazards.md R315, R316). -/

namespace Sys2Proof.Machine

variable {p : Primitive} {op : Op} {m : Mode} {f g : Flight} {lanes i : Nat}

@[simp] theorem Flight.start_core (s : State) : (Flight.start s).core = s := rfl
@[simp] theorem Flight.start_sent (s : State) : (Flight.start s).sent = [] := rfl
@[simp] theorem Flight.start_fed (s : State) : (Flight.start s).fed = [] := rfl
@[simp] theorem Flight.start_issued (s : State) : (Flight.start s).issued = [] := rfl

/-- Everything issuing a request can do: with a lane free and a block of the message not issued before, it adds the request,
formed with the feedback that is there. -/
theorem Flight.issue_eq_some : f.issue lanes op m i = some g ↔
    f.sent.length < lanes ∧ i < f.core.nblk ∧ i ∉ f.issued ∧
      ∃ fb, f.feedback op m i = some fb ∧ g = { f with sent := f.sent ++ [{ idx := i, fb := fb }] } := by
  unfold Flight.issue
  split
  · next h =>
    obtain ⟨h₁, h₂, h₃⟩ := h
    cases hfb : f.feedback op m i with
    | none => simp
    | some fb => simp [h₁, h₂, h₃, eq_comm]
  · next h =>
    constructor
    · intro e; cases e
    · rintro ⟨h₁, h₂, h₃, _⟩; exact absurd ⟨h₁, h₂, h₃⟩ h

/-- Everything an answer can do: it runs the block step of an outstanding request and takes that request off. -/
theorem Flight.answer_eq_some (h : f.answer p op m i = some g) :
    ∃ r ∈ f.sent, r.idx = i ∧ ∃ t, blockStepOf p op m { f.core with idx := i, fb := r.fb } = .ok t ∧
      g = { core := t, sent := f.sent.filter (·.idx != i), fed := (i, t.fb) :: f.fed } := by
  unfold Flight.answer at h
  split at h
  · cases h
  · next r hr =>
    refine ⟨r, List.mem_of_find?_eq_some hr, by simpa using List.find?_some hr, ?_⟩
    split at h
    · cases h
    · next t ht => exact ⟨t, ht, (Option.some.inj h).symm⟩

/-- A run of a first event and the others. -/
theorem Flight.run_cons {e : LaneEvent} {es : List LaneEvent} :
    Flight.run p lanes op m (e :: es) f = (f.event p lanes op m e).bind (Flight.run p lanes op m es) := by
  rw [Flight.run]
  cases f.event p lanes op m e <;> rfl

/-- Orders follow one another. -/
theorem Flight.run_append (a b : List LaneEvent) :
    Flight.run p lanes op m (a ++ b) f = (Flight.run p lanes op m a f).bind (Flight.run p lanes op m b) := by
  induction a generalizing f with
  | nil => rfl
  | cons e es ih =>
    rw [List.cons_append, Flight.run_cons, Flight.run_cons]
    cases f.event p lanes op m e with
    | none => rfl
    | some g => exact ih

/-- The run rule: what every event keeps, every run keeps. -/
theorem Flight.run_rule (I : Flight → Prop)
    (hissue : ∀ f g i, I f → f.issue lanes op m i = some g → I g)
    (hanswer : ∀ f g i, I f → f.answer p op m i = some g → I g)
    {order : List LaneEvent} (h : I f) (hr : Flight.run p lanes op m order f = some g) : I g := by
  induction order generalizing f with
  | nil => cases hr; exact h
  | cons e es ih =>
    rw [Flight.run_cons, Option.bind_eq_some_iff] at hr
    obtain ⟨f', he, hr⟩ := hr
    cases e with
    | issue i => exact ih (hissue _ _ i h he) hr
    | answer i => exact ih (hanswer _ _ i h he) hr

/-- In a BLOCK phase on message `s.din`, block `j` can be read whole where a block follows it. -/
theorem memRead_block_before {s u : State} (h : u.frame = (s.loaded m).frame) {j : Nat}
    (hj : j + 1 < blockCount s.din.length) : u.memRead (blockOffset j) 16 = .ok (messageBlock s.din j) := by
  have := lt_blockCount.1 hj
  exact State.memRead_ok (State.frame_ibuf h) (State.frame_ilen h) (by omega) (by unfold blockOffset; omega)

/-- A block step that keeps the frame and `IDX` writes nothing but what a block step may write. -/
theorem onlyBlockStepWrites_of_frame {u t : State} (h : t.frame = u.frame) (hi : t.idx = u.idx) :
    OnlyBlockStepWrites u t := by
  have e : ∀ x : State, x = { x.frame with
    fb := x.fb, ks := x.ks, xb := x.xb, xlen := x.xlen, yb := x.yb, obuf := x.obuf, utag := x.utag, idx := x.idx } :=
    fun _ => rfl
  unfold OnlyBlockStepWrites
  rw [e t, h, hi]
  rfl

end Sys2Proof.Machine
end

