-- ==== Sys2Proof/Laws/Machine.lean ====
section
/-! SUPPORT. The machine of Core.lean is the machine over any primitive and bound, at the ones of Config. -/

namespace Sys2Proof.Machine

theorem exec_eq_execWith : exec = execWith Config.primitive := by
  funext i s
  cases i <;> rfl

theorem step_eq_stepWith : step = stepWith Config.maxMsgBytes (execWith Config.primitive) := by
  funext s
  rw [step, exec_eq_execWith]

theorem core_eq_coreWith : core = coreWith Config.primitive Config.maxMsgBytes := by
  unfold core coreWith
  rw [step_eq_stepWith]

/-- `NEW.<m>` is `construct` on every mode, whatever the primitive: no request goes to it (R150, R314). -/
theorem execWith_new (p : Primitive) (m : Mode) (s : State) :
    execWith p (Instr.of .new m) s = .next (s.construct m) := by
  cases m <;> rfl

/-- A run of no step. -/
theorem coreWith_run_zero (p : Primitive) (bound : Option Nat) (s : State) :
    (coreWith p bound).run 0 s = .next s := rfl

/-- A run of any machine whose first step goes on. -/
theorem run_next (M : Host.Core) (k : Nat) {s t : M.State} (h : M.step s = .next t) : M.run (k + 1) s = M.run k t := by
  simp only [Host.Core.run, h]

/-- A run of any machine that ends in a state went through the state after its first step. -/
theorem run_inv (M : Host.Core) (k : Nat) {s u : M.State} (h : M.run (k + 1) s = .next u) :
    ∃ t, M.step s = .next t ∧ M.run k t = .next u := by
  cases hs : M.step s with
  | next t => exact ⟨t, rfl, by rw [← run_next M k hs]; exact h⟩
  | fault f => simp only [Host.Core.run, hs] at h; cases h
  | refused f => simp only [Host.Core.run, hs] at h; cases h

/-- A run whose first step goes on. -/
theorem coreWith_run_next (p : Primitive) (bound : Option Nat) (k : Nat) {s t : State}
    (h : stepWith bound (execWith p) s = .next t) :
    (coreWith p bound).run (k + 1) s = (coreWith p bound).run k t :=
  run_next (coreWith p bound) k h

/-- A run that ends in a state went through the state after its first step. -/
theorem coreWith_run_inv (p : Primitive) (bound : Option Nat) (k : Nat) {s u : State}
    (h : (coreWith p bound).run (k + 1) s = .next u) :
    ∃ t, stepWith bound (execWith p) s = .next t ∧ (coreWith p bound).run k t = .next u :=
  run_inv (coreWith p bound) k h

end Sys2Proof.Machine
end

