-- ==== Sys2Proof/Laws/PerInstr.lean ====
section
/-! SUPPORT. A family of statements about the commands as syntax: where the fields of a command word stand (30_encoding.md
R90, R98). -/

namespace Sys2Proof.Laws.WordFields

/-- The word of a command has `RSV = 00` and its own `OP` and `MODE` codes at their places, and is `8*OP + MODE`. -/
def Statement (i : Instr) : Prop :=
  rsvField (encode i) = 0 ∧ opField (encode i) = encodeOp i.op ∧ modeField (encode i) = encodeMode i.mode ∧
    (encode i).toNat = 8 * (encodeOp i.op).toNat + (encodeMode i.mode).toNat

theorem newEcb : Statement .newEcb := by unfold Statement; decide
theorem newCbc : Statement .newCbc := by unfold Statement; decide
theorem newCfb : Statement .newCfb := by unfold Statement; decide
theorem newOfb : Statement .newOfb := by unfold Statement; decide
theorem newCtr : Statement .newCtr := by unfold Statement; decide
theorem encEcb : Statement .encEcb := by unfold Statement; decide
theorem encCbc : Statement .encCbc := by unfold Statement; decide
theorem encCfb : Statement .encCfb := by unfold Statement; decide
theorem encOfb : Statement .encOfb := by unfold Statement; decide
theorem encCtr : Statement .encCtr := by unfold Statement; decide
theorem decEcb : Statement .decEcb := by unfold Statement; decide
theorem decCbc : Statement .decCbc := by unfold Statement; decide
theorem decCfb : Statement .decCfb := by unfold Statement; decide
theorem decOfb : Statement .decOfb := by unfold Statement; decide
theorem decCtr : Statement .decCtr := by unfold Statement; decide

end Sys2Proof.Laws.WordFields
end

