-- ==== Sys2Proof/Tests/Slice0.lean ====
section
/-! SUPPORT. The model's own tests: the smoke test of WellFormed, every command word written out from the opcode table,
the vectors of spec/95_test_vectors.md under the test primitive TOY (95 section 1.1), and a witness for every statement that has
hypotheses. -/

namespace Sys2Proof.Tests
open Sys2Proof Sys2Proof.Machine

/-! ### Fixtures (95_test_vectors.md section 1) -/

/-- Bytes from numbers. -/
def hex (l : List Nat) : Bytes := l.map (BitVec.ofNat 8)

/-- The 16 answers of TOY as a block. -/
def blockFrom (f : Nat → Byte) : Block := ⟨⟨(List.range 16).map f⟩, by simp⟩

/-- TOY: rotates left by one byte, adds the key byte and the key length. -/
def toy : Primitive where
  enc K B := blockFrom fun j => B.getD ((j + 1) % 16) 0 + K.getD j 0 + BitVec.ofNat 8 K.length
  dec K C := blockFrom fun j => C.getD ((j + 15) % 16) 0 - K.getD ((j + 15) % 16) 0 - BitVec.ofNat 8 K.length

/-- `K1` of 95_test_vectors.md. -/
def k1 : Bytes := (List.range 16).map fun j => BitVec.ofNat 8 (0xa0 + j)

/-- `IV0` of 95_test_vectors.md. -/
def iv0 : Block := blockFrom fun j => BitVec.ofNat 8 j

/-- `SS`, "small string". -/
def ss : Bytes := hex [0x73, 0x6d, 0x61, 0x6c, 0x6c, 0x20, 0x73, 0x74, 0x72, 0x69, 0x6e, 0x67]

/-- `P20`. -/
def p20 : Bytes := (List.range 20).map fun j => BitVec.ofNat 8 (0x41 + j)

/-- `P33`. -/
def p33 : Bytes := (List.range 33).map fun j => BitVec.ofNat 8 (0x21 + j)

/-- After reset, with every engine constructed under `K1` and `IV0`, and `din` on the message port. -/
def ready (din : Bytes) : State :=
  { State.reset with
    ecb := { valid := true, klen := .k16, key := k1 }
    cbc := { valid := true, klen := .k16, key := k1, iv := iv0 }
    cfb := { valid := true, klen := .k16, key := k1, iv := iv0 }
    ofb := { valid := true, klen := .k16, key := k1, iv := iv0 }
    ctr := { valid := true, klen := .k16, key := k1, iv := iv0 }
    din := din }

/-- After reset, with a key of `n` zero bytes and an IV on the ports. -/
def keyed (n : Nat) (iv : Option Bytes) : State := { State.reset with keyIn := rep 0 n, ivIn := iv }

/-- What the result ports show after a command. -/
def shows : Host.Outcome State Fault Refusal → Option Result
  | .next t => t.result
  | .fault _ => none
  | .refused _ => none

/-- The ports `ST`, `ERR` and the length `OLEN` after a command (R97). -/
def portsOf : Host.Outcome State Fault Refusal → Option (BitVec 2 × BitVec 4 × Nat)
  | .next t => some (t.stPort, t.errPort, t.olen)
  | .fault _ => none
  | .refused _ => none

/-- The unpad tag a command leaves. -/
def tagOf : Host.Outcome State Fault Refusal → Option UnpadTag
  | .next t => some t.utag
  | .fault _ => none
  | .refused _ => none

/-- Which contexts are valid after a command, in the order of the `MODE` codes. -/
def validAfter : Host.Outcome State Fault Refusal → List Bool
  | .next t => [t.ecb.valid, t.cbc.valid, t.cfb.valid, t.ofb.valid, t.ctr.valid]
  | .fault _ => []
  | .refused _ => []

/-- A request with nothing on the operand ports. -/
def bare (w : BitVec 8) : Request := { word := w, keyIn := [], ivIn := none, din := [] }

/-- `s` with one request to come. -/
def facing (s : State) (r : Request) : State := { s with stream := [r] }

/-! ### WellFormed: a request that does not fit the DIN port (R61) -/

theorem test_fitsPort_refuses_long : fitsPort (some 1) [0, 0] = false := by decide
theorem test_fitsPort_takes_full : fitsPort (some 2) [0, 0] = true := by decide
theorem test_presentable_refuses_long : ({ bare 0x10 with din := [0, 0] } : Request).presentable (some 1) = false := by
  decide
theorem test_long_message_has_no_step :
    stepWith (some 1) (execWith toy) (facing State.reset { bare 0x10 with din := [0, 0] })
      = .refused .messageNotPresentable := rfl

/-! ### Decode: every row of the opcode table (R98), bit by bit: RSV, OP, MODE -/

theorem test_decode_new_ecb : decode (0b00#2 ++ (0b001#3 ++ 0b000#3)) = .ok .newEcb := by decide
theorem test_decode_new_cbc : decode (0b00#2 ++ (0b001#3 ++ 0b001#3)) = .ok .newCbc := by decide
theorem test_decode_new_cfb : decode (0b00#2 ++ (0b001#3 ++ 0b010#3)) = .ok .newCfb := by decide
theorem test_decode_new_ofb : decode (0b00#2 ++ (0b001#3 ++ 0b011#3)) = .ok .newOfb := by decide
theorem test_decode_new_ctr : decode (0b00#2 ++ (0b001#3 ++ 0b100#3)) = .ok .newCtr := by decide
theorem test_decode_enc_ecb : decode (0b00#2 ++ (0b010#3 ++ 0b000#3)) = .ok .encEcb := by decide
theorem test_decode_enc_cbc : decode (0b00#2 ++ (0b010#3 ++ 0b001#3)) = .ok .encCbc := by decide
theorem test_decode_enc_cfb : decode (0b00#2 ++ (0b010#3 ++ 0b010#3)) = .ok .encCfb := by decide
theorem test_decode_enc_ofb : decode (0b00#2 ++ (0b010#3 ++ 0b011#3)) = .ok .encOfb := by decide
theorem test_decode_enc_ctr : decode (0b00#2 ++ (0b010#3 ++ 0b100#3)) = .ok .encCtr := by decide
theorem test_decode_dec_ecb : decode (0b00#2 ++ (0b011#3 ++ 0b000#3)) = .ok .decEcb := by decide
theorem test_decode_dec_cbc : decode (0b00#2 ++ (0b011#3 ++ 0b001#3)) = .ok .decCbc := by decide
theorem test_decode_dec_cfb : decode (0b00#2 ++ (0b011#3 ++ 0b010#3)) = .ok .decCfb := by decide
theorem test_decode_dec_ofb : decode (0b00#2 ++ (0b011#3 ++ 0b011#3)) = .ok .decOfb := by decide
theorem test_decode_dec_ctr : decode (0b00#2 ++ (0b011#3 ++ 0b100#3)) = .ok .decCtr := by decide

/-- V-DECODE-4 to V-DECODE-7. -/
theorem test_decode_rejects :
    decode 0x00 = .error .reservedOp ∧ decode 0x07 = .error .reservedOp ∧ decode 0x0d = .error .reservedMode ∧
    decode 0x1f = .error .reservedMode ∧ decode 0x20 = .error .reservedOp ∧ decode 0x3f = .error .reservedOp ∧
    decode 0x48 = .error .reservedRsv ∧ decode 0xd1 = .error .reservedRsv := by decide

theorem test_tableWord : decodeTableWord 8 0x14 = some .encCtr ∧ decodeTableWord 8 0x50 = none := by decide

/-- R102: a line assembles to its command word and its operand ports. -/
theorem test_assemble : assemble (.new .cbc k1 none) = { bare 0x09 with keyIn := k1 } ∧
    assemble (.dec .ctr ss) = { bare 0x1c with din := ss } ∧ assemble (.word 0x50) = bare 0x50 := by decide

/-- The word `withFetchWord` places is the one the next step runs. -/
theorem test_withFetchWord_runs :
    shows (step (State.reset.withFetchWord 8 0x1c)) = some (.err .noEngine) ∧
    shows (step (State.reset.withFetchWord 8 0x09)) = some (.err .invalidKeyLength) := by decide

/-! ### The units -/

theorem test_chunk_lengths : (chunk p33).map List.length = [16, 16, 1] ∧ (chunk []).length = 0 := by decide
theorem test_pad : pad [0x41] = .ok (0x41 :: rep 0x0f 15) ∧ pad (rep 0 16) = .error .padInputLength := by decide
theorem test_unpad :
    unpad (rep 0x10 16) = .ok [] ∧ unpad (rep 0 16) = .error .paddingError ∧
    unpad (rep 0 13 ++ hex [3, 2, 3]) = .error .paddingError ∧ unpad (rep 0 14 ++ hex [2, 2]) = .ok (rep 0 14) := by
  decide
theorem test_xor : xor (hex [0x00, 0xff, 0x55, 0xaa]) (hex [0x0f, 0x0f, 0xff, 0xff]) = .ok (hex [0x0f, 0xf0, 0xaa, 0x55]) ∧
    xor [1] [] = .error .xorLength := by decide
theorem test_inc128_carries : inc128 (rep 0 8 ++ rep 0xff 8) = rep 0 7 ++ 1 :: rep 0 8 := by decide
theorem test_inc128_wraps : inc128 (rep 0xff 16) = rep 0 16 := by decide
theorem test_prep_aligned : prep (rep 7 16) = .ok [rep 7 16] ∧ prep [] = .error .emptyInput := by decide
theorem test_toy : (toy.enc k1 iv0.toList).toList = hex [0xb1, 0xb3, 0xb5, 0xb7, 0xb9, 0xbb, 0xbd, 0xbf, 0xc1, 0xc3, 0xc5, 0xc7, 0xc9, 0xcb, 0xcd, 0xbf] := by decide

/-! ### NEW.<m> (V-NEW) -/

theorem test_newEcb_ignores_iv : shows (execNewEcb (keyed 24 (some [1]))) = some (.ok []) ∧
    validAfter (execNewEcb (keyed 24 none)) = [true, false, false, false, false] := by decide
theorem test_newEcb_bad_key : shows (execNewEcb (keyed 17 none)) = some (.err .invalidKeyLength) := by decide
theorem test_newCbc : shows (execNewCbc (keyed 16 (some (rep 9 16)))) = some (.ok []) ∧
    validAfter (execNewCbc (keyed 16 (some (rep 9 16)))) = [false, true, false, false, false] := by decide
theorem test_newCbc_errors : shows (execNewCbc (keyed 33 (some (rep 0 15)))) = some (.err .invalidKeyLength) ∧
    shows (execNewCbc (keyed 16 none)) = some (.err .invalidIVLength) ∧
    shows (execNewCbc (keyed 32 (some (rep 0 17)))) = some (.err .invalidIVLength) := by decide
theorem test_newCfb : shows (execNewCfb (keyed 24 (some (rep 9 16)))) = some (.ok []) ∧
    validAfter (execNewCfb (keyed 24 (some (rep 9 16)))) = [false, false, true, false, false] := by decide
theorem test_newCfb_errors : shows (execNewCfb (keyed 33 (some (rep 0 15)))) = some (.err .invalidKeyLength) ∧
    shows (execNewCfb (keyed 16 none)) = some (.err .invalidIVLength) ∧
    shows (execNewCfb (keyed 32 (some (rep 0 17)))) = some (.err .invalidIVLength) := by decide
theorem test_newOfb : shows (execNewOfb (keyed 32 (some (rep 9 16)))) = some (.ok []) ∧
    validAfter (execNewOfb (keyed 32 (some (rep 9 16)))) = [false, false, false, true, false] := by decide
theorem test_newOfb_errors : shows (execNewOfb (keyed 33 (some (rep 0 15)))) = some (.err .invalidKeyLength) ∧
    shows (execNewOfb (keyed 16 none)) = some (.err .invalidIVLength) ∧
    shows (execNewOfb (keyed 32 (some (rep 0 17)))) = some (.err .invalidIVLength) := by decide
theorem test_newCtr : shows (execNewCtr (keyed 32 (some (rep 9 16)))) = some (.ok []) ∧
    validAfter (execNewCtr (keyed 32 (some (rep 9 16)))) = [false, false, false, false, true] := by decide
theorem test_newCtr_errors : shows (execNewCtr (keyed 33 (some (rep 0 15)))) = some (.err .invalidKeyLength) ∧
    shows (execNewCtr (keyed 16 none)) = some (.err .invalidIVLength) ∧
    shows (execNewCtr (keyed 32 (some (rep 0 17)))) = some (.err .invalidIVLength) := by decide

/-- V-NEW-8: a failing construction invalidates its own context only. -/
theorem test_new_failure_is_local :
    validAfter (execNewCbc { ready [] with keyIn := rep 0 15 }) = [true, false, true, true, true] := by decide

/-! ### ENC.<m> and DEC.<m> under TOY, K1, IV0 (95 sections 2.4 to 2.8) -/

/-- V-ECB-1. -/
theorem test_encEcb : shows (encEcb toy (ready (ss))) = some (.ok (hex [0x1d, 0x12, 0x1e, 0x1f, 0xd4, 0x28, 0x2a, 0x29, 0x21, 0x27, 0x21, 0xbf, 0xc0, 0xc1, 0xc2, 0x32])) := by decide
/-- V-ECB-4. -/
theorem test_encEcb_blocks : shows (encEcb toy (ready (p20))) = some (.ok (hex [0xf2, 0xf4, 0xf6, 0xf8, 0xfa, 0xfc, 0xfe, 0x00, 0x02, 0x04, 0x06, 0x08, 0x0a, 0x0c, 0x0e, 0x00, 0x02, 0x04, 0x06, 0xbf, 0xc0, 0xc1, 0xc2, 0xc3, 0xc4, 0xc5, 0xc6, 0xc7, 0xc8, 0xc9, 0xca, 0x10])) := by decide
/-- V-ECB-4. -/
theorem test_decEcb : shows (decEcb toy (ready (hex [0xf2, 0xf4, 0xf6, 0xf8, 0xfa, 0xfc, 0xfe, 0x00, 0x02, 0x04, 0x06, 0x08, 0x0a, 0x0c, 0x0e, 0x00, 0x02, 0x04, 0x06, 0xbf, 0xc0, 0xc1, 0xc2, 0xc3, 0xc4, 0xc5, 0xc6, 0xc7, 0xc8, 0xc9, 0xca, 0x10]))) = some (.ok (p20)) := by decide
/-- V-ECB-10: malformed padding comes out raw, with the tag. -/
theorem test_decEcb_raw :
    shows (decEcb toy (ready (hex [0x11, 0x13, 0x15, 0x17, 0x19, 0x1b, 0x1d, 0x1f, 0x21, 0x23, 0x25, 0x27, 0x29, 0x2b, 0x2d, 0x1f]))) =
      some (.ok (hex [0x60, 0x61, 0x62, 0x63, 0x64, 0x65, 0x66, 0x67, 0x68, 0x69, 0x6a, 0x6b, 0x6c, 0x6d, 0x6e, 0x6f])) ∧
    tagOf (decEcb toy (ready (hex [0x11, 0x13, 0x15, 0x17, 0x19, 0x1b, 0x1d, 0x1f, 0x21, 0x23, 0x25, 0x27, 0x29, 0x2b, 0x2d, 0x1f]))) = some .unpadded := by decide
/-- V-CBC-1. -/
theorem test_encCbc : shows (encCbc toy (ready (ss))) = some (.ok (hex [0x1c, 0x14, 0x21, 0x1b, 0xd9, 0x2a, 0x29, 0x31, 0x18, 0x1d, 0x26, 0xc3, 0xc5, 0xc7, 0xc9, 0x32])) := by decide
/-- V-CBC-5. -/
theorem test_encCbc_chains : shows (encCbc toy (ready (p33))) = some (.ok (hex [0xd3, 0xd2, 0xd9, 0xd4, 0xd7, 0xd6, 0xe5, 0xd8, 0xdb, 0xda, 0xe1, 0xdc, 0xdf, 0xde, 0xfd, 0xe0, 0x90, 0x9b, 0x92, 0x95, 0x94, 0x87, 0x96, 0x99, 0x98, 0x93, 0x9a, 0x9d, 0x9c, 0x7f, 0x5e, 0xa1, 0x44, 0x4e, 0x4c, 0x4e, 0x3c, 0x4e, 0x4c, 0x4e, 0x54, 0x4e, 0x4c, 0x4e, 0x2c, 0x0e, 0x6c, 0x90])) := by decide
/-- V-CBC-5. -/
theorem test_decCbc : shows (decCbc toy (ready (hex [0xd3, 0xd2, 0xd9, 0xd4, 0xd7, 0xd6, 0xe5, 0xd8, 0xdb, 0xda, 0xe1, 0xdc, 0xdf, 0xde, 0xfd, 0xe0, 0x90, 0x9b, 0x92, 0x95, 0x94, 0x87, 0x96, 0x99, 0x98, 0x93, 0x9a, 0x9d, 0x9c, 0x7f, 0x5e, 0xa1, 0x44, 0x4e, 0x4c, 0x4e, 0x3c, 0x4e, 0x4c, 0x4e, 0x54, 0x4e, 0x4c, 0x4e, 0x2c, 0x0e, 0x6c, 0x90]))) = some (.ok (p33)) := by decide
/-- V-CBC-6. -/
theorem test_decCbc_strips_aligned : shows (decCbc toy (ready (hex [0xe0, 0xe1, 0xe2, 0xe3, 0xe4, 0xe5, 0xe6, 0xe7, 0xe8, 0xe9, 0xea, 0xeb, 0xec, 0xed, 0xcc, 0xef]))) = some (.ok (hex [0x30, 0x31, 0x32, 0x33, 0x34, 0x35, 0x36, 0x37, 0x38, 0x39, 0x3a, 0x3b, 0x3c, 0x3d, 0x3e])) := by decide
/-- V-CFB-1. -/
theorem test_encCfb : shows (encCfb toy (ready (ss))) = some (.ok (hex [0xc2, 0xde, 0xd4, 0xdb, 0xd5, 0x9b, 0xce, 0xcb, 0xb3, 0xaa, 0xab, 0xa0])) := by decide
/-- V-CFB-5. -/
theorem test_encCfb_feeds_output : shows (encCfb toy (ready (p33))) = some (.ok (hex [0x90, 0x91, 0x96, 0x93, 0x9c, 0x9d, 0x9a, 0x97, 0xe8, 0xe9, 0xee, 0xeb, 0xe4, 0xe5, 0xe2, 0x8f, 0x70, 0x75, 0x76, 0x7b, 0x64, 0x79, 0x7a, 0xa7, 0x98, 0x9d, 0x9e, 0xa3, 0x9c, 0xa1, 0x72, 0x0f, 0x64])) := by decide
/-- V-CFB-5. -/
theorem test_decCfb : shows (decCfb toy (ready (hex [0x90, 0x91, 0x96, 0x93, 0x9c, 0x9d, 0x9a, 0x97, 0xe8, 0xe9, 0xee, 0xeb, 0xe4, 0xe5, 0xe2, 0x8f, 0x70, 0x75, 0x76, 0x7b, 0x64, 0x79, 0x7a, 0xa7, 0x98, 0x9d, 0x9e, 0xa3, 0x9c, 0xa1, 0x72, 0x0f, 0x64]))) = some (.ok (p33)) := by decide
/-- V-CFB-9. -/
theorem test_decCfb_feeds_input : shows (decCfb toy (ready (p33))) = some (.ok (hex [0x90, 0x91, 0x96, 0x93, 0x9c, 0x9d, 0x9a, 0x97, 0xe8, 0xe9, 0xee, 0xeb, 0xe4, 0xe5, 0xe2, 0x8f, 0xe3, 0xe6, 0xe5, 0xec, 0xef, 0xea, 0xe9, 0xd8, 0xdb, 0xde, 0xdd, 0xd4, 0xd7, 0xd2, 0xd1, 0xa0, 0xa3])) := by decide
/-- V-OFB-4. -/
theorem test_encOfb : shows (encOfb toy (ready (p20))) = some (.ok (hex [0xf0, 0xf1, 0xf6, 0xf3, 0xfc, 0xfd, 0xfa, 0xf7, 0x88, 0x89, 0x8e, 0x8b, 0x84, 0x85, 0x82, 0xef, 0x32, 0x34, 0x3a, 0x38])) := by decide
/-- V-OFB-5. -/
theorem test_encOfb_chains : shows (encOfb toy (ready (p33))) = some (.ok (hex [0x90, 0x91, 0x96, 0x93, 0x9c, 0x9d, 0x9a, 0x97, 0xe8, 0xe9, 0xee, 0xeb, 0xe4, 0xe5, 0xe2, 0x8f, 0x52, 0x54, 0x5a, 0x58, 0x5a, 0x44, 0x42, 0x40, 0x42, 0x44, 0xba, 0xb8, 0xba, 0xb4, 0x42, 0x30, 0x57])) := by decide
/-- V-OFB-5. -/
theorem test_decOfb : shows (decOfb toy (ready (hex [0x90, 0x91, 0x96, 0x93, 0x9c, 0x9d, 0x9a, 0x97, 0xe8, 0xe9, 0xee, 0xeb, 0xe4, 0xe5, 0xe2, 0x8f, 0x52, 0x54, 0x5a, 0x58, 0x5a, 0x44, 0x42, 0x40, 0x42, 0x44, 0xba, 0xb8, 0xba, 0xb4, 0x42, 0x30, 0x57]))) = some (.ok (p33)) := by decide
/-- V-OFB-2. -/
theorem test_decOfb_short : shows (decOfb toy (ready (hex [0xc2, 0xde, 0xd4, 0xdb, 0xd5, 0x9b, 0xce, 0xcb, 0xb3, 0xaa, 0xab, 0xa0]))) = some (.ok (ss)) := by decide
/-- V-CTR-5. -/
theorem test_encCtr : shows (encCtr toy (ready (p33))) = some (.ok (hex [0x90, 0x91, 0x96, 0x93, 0x9c, 0x9d, 0x9a, 0x97, 0xe8, 0xe9, 0xee, 0xeb, 0xe4, 0xe5, 0xe2, 0x8f, 0x80, 0x81, 0x86, 0x83, 0x8c, 0x8d, 0x8a, 0x87, 0xf8, 0xf9, 0xfe, 0xfb, 0xf4, 0xf5, 0xf1, 0xff, 0xf0])) := by decide
/-- V-CTR-11: the counter wraps from ff*16 to 00*16. -/
theorem test_encCtr_wraps :
    shows (encCtr toy { ready p33 with ctr := { valid := true, klen := .k16, key := k1, iv := Vector.replicate 16 0xff } }) =
      some (.ok (hex [0x8e, 0x92, 0x92, 0x96, 0x96, 0x92, 0x92, 0x9e, 0x9e, 0x92, 0x92, 0x96, 0x96, 0x92, 0x92, 0x8e, 0x81, 0x83, 0x81, 0x87, 0x81, 0x83, 0x81, 0x8f, 0x81, 0x83, 0x81, 0x87, 0x81, 0x83, 0x81, 0xff, 0xf1])) := by decide
/-- V-CTR-5. -/
theorem test_decCtr : shows (decCtr toy (ready (hex [0x90, 0x91, 0x96, 0x93, 0x9c, 0x9d, 0x9a, 0x97, 0xe8, 0xe9, 0xee, 0xeb, 0xe4, 0xe5, 0xe2, 0x8f, 0x80, 0x81, 0x86, 0x83, 0x8c, 0x8d, 0x8a, 0x87, 0xf8, 0xf9, 0xfe, 0xfb, 0xf4, 0xf5, 0xf1, 0xff, 0xf0]))) = some (.ok (p33)) := by decide
/-- V-CTR-2. -/
theorem test_decCtr_short : shows (decCtr toy (ready (hex [0xc2, 0xde, 0xd4, 0xdb, 0xd5, 0x9b, 0xce, 0xcb, 0xb3, 0xaa, 0xab, 0xa0]))) = some (.ok (ss)) := by decide

/-! ### Requests in flight -/

/-- What the machine with `LANES = lanes` shows of a command in a given order. -/
def showsLanes (lanes : Nat) (order : List LaneEvent) (i : Instr) (s : State) : Option Result :=
  (execLanes toy lanes order i s).bind shows

/-- V-CTR-5 with three requests outstanding, answered out of order. -/
theorem test_lanes_encCtr : showsLanes 3 [.issue 0, .issue 1, .issue 2, .answer 2, .answer 0, .answer 1] .encCtr
    (ready (p33)) = some (.ok (hex [0x90, 0x91, 0x96, 0x93, 0x9c, 0x9d, 0x9a, 0x97, 0xe8, 0xe9, 0xee, 0xeb, 0xe4, 0xe5, 0xe2, 0x8f, 0x80, 0x81, 0x86, 0x83, 0x8c, 0x8d, 0x8a, 0x87, 0xf8, 0xf9, 0xfe, 0xfb, 0xf4, 0xf5, 0xf1, 0xff, 0xf0])) := by
  decide

/-- The vector of test_decCbc with the last block, the one that is unpadded, answered first. -/
theorem test_lanes_decCbc : showsLanes 2 [.issue 2, .issue 0, .answer 2, .issue 1, .answer 1, .answer 0] .decCbc
    (ready (hex [0xd3, 0xd2, 0xd9, 0xd4, 0xd7, 0xd6, 0xe5, 0xd8, 0xdb, 0xda, 0xe1, 0xdc, 0xdf, 0xde, 0xfd, 0xe0, 0x90, 0x9b, 0x92, 0x95, 0x94, 0x87, 0x96, 0x99, 0x98, 0x93, 0x9a, 0x9d, 0x9c, 0x7f, 0x5e, 0xa1, 0x44, 0x4e, 0x4c, 0x4e, 0x3c, 0x4e, 0x4c, 0x4e, 0x54, 0x4e, 0x4c, 0x4e, 0x2c, 0x0e, 0x6c, 0x90])) =
    some (.ok (p33)) := by
  decide

/-- With one lane a second request waits; in `ENC.CBC` it waits for the answer before it; an order leaves no block out. -/
theorem test_lanes_refuses :
    execLanes toy 1 [.issue 0, .issue 1, .answer 0, .answer 1] .encCtr (ready p20) = none ∧
    execLanes toy 2 [.issue 0, .issue 1, .answer 0, .answer 1] .encCbc (ready p20) = none ∧
    execLanes toy 2 [.issue 0, .answer 0] .encCtr (ready p20) = none := ⟨rfl, rfl, rfl⟩

/-- V-ERR-2, V-ERR-5, V-ERR-6. -/
theorem test_message_errors :
    shows (decEcb toy { State.reset with din := [1] }) = some (.err .noEngine) ∧
    shows (encOfb toy (ready [])) = some (.err .emptyInput) ∧ shows (decCbc toy (ready [])) = some (.err .emptyInput) ∧
    shows (decCbc toy (ready (rep 0 17))) = some (.err .invalidCiphertextLength) ∧
    shows (decEcb toy (ready (rep 0 15))) = some (.err .invalidCiphertextLength) := by decide

/-- V-ERR-9: an ENC.ECB pattern with RSV = 01. -/
theorem test_illegal_keeps_context :
    shows (step (facing (ready []) (bare 0x50))) = some (.err .illegalCommand) ∧
    validAfter (step (facing (ready []) (bare 0x50))) = [true, true, true, true, true] := by decide

/-- The `ST/ERR/OLEN` column of V-ERR-1 to V-ERR-6. -/
theorem test_error_codes :
    portsOf (step (facing State.reset (bare 0x00))) = some (3, 6, 0) ∧
    portsOf (encCtr toy State.reset) = some (3, 7, 0) ∧
    portsOf (execNewCbc (keyed 15 (some (rep 0 15)))) = some (3, 1, 0) ∧
    portsOf (execNewCbc (keyed 16 none)) = some (3, 2, 0) ∧
    portsOf (encCfb toy (ready [])) = some (3, 3, 0) ∧
    portsOf (decCbc toy (ready (rep 0 17))) = some (3, 4, 0) := by decide

/-- V-ERR-7 (a block whose padding is malformed), V-ERR-10, and reset. -/
theorem test_success_codes :
    portsOf (decEcb toy (ready (rep 0 16))) = some (2, 0, 16) ∧
    portsOf (execNewEcb { ready [] with keyIn := k1, olen := 1, obuf := [(0, 0)] }) = some (2, 0, 0) ∧
    portsOf (.next State.reset) = some (0, 0, 0) := by decide

/-! ### Witnesses: for every statement with hypotheses, a state and operands that meet them all -/

theorem blockFrom_getD (f : Nat → Byte) (n : Nat) (h : n < 16) : (blockFrom f).toList.getD n 0 = f n := by
  simp [blockFrom, List.getD_eq_getElem?_getD, h]

theorem bytes_ext (a b : Bytes) (hl : a.length = b.length) (h : ∀ j, j < a.length → a.getD j 0 = b.getD j 0) : a = b := by
  refine List.ext_getElem hl fun j h1 h2 => ?_
  simpa [List.getD_eq_getElem?_getD, h1, h2] using h j h1

theorem toy_enc_getD (K B : Bytes) (n : Nat) (h : n < 16) :
    (toy.enc K B).toList.getD n 0 = B.getD ((n + 1) % 16) 0 + K.getD n 0 + BitVec.ofNat 8 K.length :=
  blockFrom_getD _ n h

theorem toy_dec_getD (K C : Bytes) (n : Nat) (h : n < 16) :
    (toy.dec K C).toList.getD n 0 = C.getD ((n + 15) % 16) 0 - K.getD ((n + 15) % 16) 0 - BitVec.ofNat 8 K.length :=
  blockFrom_getD _ n h

theorem add_add_sub_sub (x a b : Byte) : x + a + b - a - b = x := by bv_omega

/-- TOY has P3 (95_test_vectors.md section 1.1). -/
theorem witness_inverts : toy.Inverts := by
  intro K B _ hB
  refine bytes_ext _ _ (by simp [hB]) fun j h => ?_
  have hj : j < 16 := by simpa using h
  rw [toy_dec_getD K _ j hj, toy_enc_getD K B _ (Nat.mod_lt _ (by omega)), add_add_sub_sub,
    show ((j + 15) % 16 + 1) % 16 = j by omega]

/-- TOY has P4. -/
theorem witness_encInjective : toy.EncInjective := by
  intro K A B hK hA hB h
  rw [← witness_inverts K A hK hA, ← witness_inverts K B hK hB, h]

/-- For IllegalWordsOnlyReportIllegalCommand, IllegalWordNextState and the second clause of ErrorTable. -/
theorem witness_illegalWord :
    (facing (ready []) (bare 0x50)).stream = bare 0x50 :: [] ∧ (∀ i, decode (bare 0x50).word ≠ .ok i) ∧
    (∀ i, decode (bare 0x07).word ≠ .ok i) ∧ (∀ i, decode (bare 0x0d).word ≠ .ok i) ∧
    (∀ i, decode (bare 0x20).word ≠ .ok i) ∧ decode 0x08#8 = .ok .newEcb ∧ decode 0x1c#8 = .ok .decCtr :=
  ⟨rfl, fun i => by cases i <;> decide, fun i => by cases i <;> decide, fun i => by cases i <;> decide,
    fun i => by cases i <;> decide, by decide, by decide⟩

theorem witness_StepRunsDecodedCommand :
    (facing State.reset (bare 0x1c)).stream = bare 0x1c :: [] ∧ decode (bare 0x1c).word = .ok .decCtr :=
  ⟨rfl, by decide⟩

theorem witness_StepIdlesWithoutRequest : State.reset.stream = [] := rfl

theorem witness_FirstErrorIsReported : (facing (ready []) (bare 0x19)).stream = bare 0x19 :: [] ∧
    firstError .decCbc ((ready []).accept (bare 0x19) []) = some .emptyInput ∧
    firstError .decCbc ((ready []).accept { bare 0x19 with din := rep 0 17 } []) = some .invalidCiphertextLength ∧
    firstError .decCbc ((ready []).accept { bare 0x19 with din := rep 0 16 } []) = none ∧
    firstError .newCbc ((ready []).accept (bare 0x09) []) = some .invalidKeyLength ∧
    firstError .newCbc ((ready []).accept { bare 0x09 with keyIn := rep 0 32 } []) = some .invalidIVLength := by decide

theorem witness_NewEcbInstallsEngine :
    (keyed 16 none).keyIn.length = KeyLen.k16.bytes ∧ (keyed 24 none).keyIn.length = KeyLen.k24.bytes ∧
    (keyed 32 none).keyIn.length = KeyLen.k32.bytes := by decide

theorem witness_NewInstallsEngineWithIv :
    (keyed 32 (some iv0.toList)).keyIn.length = KeyLen.k32.bytes ∧ (keyed 32 (some iv0.toList)).ivIn = some iv0.toList := by
  decide

theorem witness_NewRejectsBadKeyFirst : ∀ n ∈ [0, 15, 17, 23, 25, 31, 33],
    (keyed n none).keyIn.length ≠ 16 ∧ (keyed n none).keyIn.length ≠ 24 ∧ (keyed n none).keyIn.length ≠ 32 := by decide

theorem witness_NewRejectsBadIv :
    (keyed 16 none).keyIn.length = KeyLen.k16.bytes ∧ (∀ b, (keyed 16 none).ivIn = some b → b.length ≠ 16) ∧
    (∀ b, (keyed 16 (some (rep 0 15))).ivIn = some b → b.length ≠ 16) ∧
    (∀ b, (keyed 16 (some (rep 0 17))).ivIn = some b → b.length ≠ 16) :=
  ⟨by decide, (fun b h => by cases h), (fun b h => by cases h; decide), (fun b h => by cases h; decide)⟩

theorem witness_IgnoredPortsDoNotMatter :
    exec .newEcb (keyed 16 none) = .next ((keyed 16 none).construct .ecb) ∧ Instr.newEcb.op = .new ∧
    (∃ t, exec .decCtr State.reset = .next t) ∧ Instr.decCtr.op ≠ .new :=
  ⟨rfl, rfl, ⟨_, rfl⟩, by decide⟩

/-- For EncEcbResult, EncCbcResult, CfbResults, OfbResults, CtrResults. -/
theorem witness_EncResults : ∀ m, ((ready [1]).context m).valid = true ∧ (ready [1]).din ≠ [] ∧
    ((ready (rep 0 16)).context m).valid = true ∧ (ready (rep 0 16)).din ≠ [] := by
  intro m; cases m <;> decide

theorem witness_DecEcbResult : (ready (rep 0 16)).ecb.valid = true ∧ (ready (rep 0 16)).din ≠ [] ∧
    (ready (rep 0 16)).din.length % 16 = 0 := by decide

theorem witness_DecCbcResult : (ready (rep 0 32)).cbc.valid = true ∧ (ready (rep 0 32)).din ≠ [] ∧
    (ready (rep 0 32)).din.length % 16 = 0 := by decide

theorem witness_NoEngineFails : Instr.encEcb.op ≠ .new ∧ (State.reset.context Instr.encEcb.mode).valid = false ∧
    Instr.decCtr.op ≠ .new ∧ (State.reset.context Instr.decCtr.mode).valid = false := by decide

theorem witness_EmptyMessageFails : Instr.decCbc.op ≠ .new ∧ ((ready []).context Instr.decCbc.mode).valid = true ∧
    (ready []).din = [] := by decide

theorem witness_UnalignedCiphertextFails : ∀ n ∈ [1, 15, 17, 31, 33],
    ((ready (rep 0 n)).context Instr.decEcb.mode).valid = true ∧ (ready (rep 0 n)).din ≠ [] ∧
    ((ready (rep 0 n)).din.length < 16 ∨ (ready (rep 0 n)).din.length % 16 ≠ 0) := by decide

/-- The state in which the BLOCK phase of `ENC.CFB` on two blocks starts; the one with only the short block to go; and a state of
`ENC.ECB`, where `FB` is free. -/
theorem witness_BlockStepRegisters :
    ((ready (rep 1 17)).start.acceptMessage.load .cfb).ibuf = Memory.holding 0 (rep 1 17) ∧
    ((ready (rep 1 17)).start.acceptMessage.load .cfb).ilen = (rep 1 17).length ∧
    ((ready (rep 1 17)).start.acceptMessage.load .cfb).idx < blockCount (rep 1 17).length ∧
    1 < blockCount (rep 1 17).length ∧ ((ready (rep 1 17)).start.acceptMessage.load .cfb).fb.length = 16 ∧
    (ready (rep 1 17)).din ≠ [] ∧
    ({ (ready (rep 1 17)).start.acceptMessage.load .ecb with fb := [] } : State).ibuf = Memory.holding 0 (rep 1 17) :=
  ⟨rfl, rfl, by decide, by decide, by decide, by decide, rfl⟩

/-- The last of two blocks, the one that `DEC.ECB` and `DEC.CBC` unpad. -/
theorem witness_BlockStepRegisters_last : ∀ m ∈ [Mode.ecb, Mode.cbc],
    ({ (ready (rep 1 32)).start.acceptMessage.load m with idx := 1 } : State).ibuf = Memory.holding 0 (rep 1 32) ∧
    ({ (ready (rep 1 32)).start.acceptMessage.load m with idx := 1 } : State).ilen = (rep 1 32).length ∧
    1 < blockCount (rep 1 32).length ∧
    ({ (ready (rep 1 32)).start.acceptMessage.load m with idx := 1 } : State).idx + 1
      = ({ (ready (rep 1 32)).start.acceptMessage.load m with idx := 1 } : State).nblk ∧
    (m = .cbc → ({ (ready (rep 1 32)).start.acceptMessage.load m with idx := 1 } : State).fb.length = 16) := by decide

theorem witness_ChunkLaws : rep 0 1 ≠ [] ∧ rep 0 16 ≠ [] ∧ rep 0 17 ≠ [] ∧
    (chunk (rep 0 17))[0]? = some (rep 0 16) ∧ rep 0 1 ∈ chunk (rep 0 17) := by decide

theorem witness_ChunkIdempotence : (rep 0 0).length = 16 * 0 ∧ (rep 0 32).length = 16 * 2 := by decide

theorem witness_PaddingRoundTrip : 0 < (rep 0 1).length ∧ (rep 0 1).length < 16 ∧ 0 < (rep 0 15).length ∧
    (rep 0 15).length < 16 := by decide

theorem witness_PrepPadsOnlyUnaligned : rep 0 1 ≠ [] ∧ (rep 0 1).length % 16 ≠ 0 ∧ rep 0 16 ≠ [] ∧
    (rep 0 16).length % 16 = 0 := by decide

theorem witness_XorCombiner : xor [1] [3] = .ok [2] ∧ ([1] : Bytes)[0]? = some 1 ∧ ([3] : Bytes)[0]? = some 3 := by decide

theorem witness_CounterIncrement : (rep 0xff 16).length = 16 := by decide

theorem witness_MemWriteSetsItsBytes : Memory.wf [(0, 1), (5, 2)] = true := by decide

/-- TOY on blocks, something else on other byte strings. -/
def toyOnBlocks : Primitive where
  enc K B := if B.length = 16 then toy.enc K B else Vector.replicate 16 0
  dec K C := if C.length = 16 then toy.dec K C else Vector.replicate 16 0

theorem witness_PrimitiveSeesOnlyBlocks :
    (∀ K B : Bytes, K.length = 16 ∨ K.length = 24 ∨ K.length = 32 → B.length = 16 →
      toy.enc K B = toyOnBlocks.enc K B ∧ toy.dec K B = toyOnBlocks.dec K B) ∧
    toy.enc [] [] = Vector.replicate 16 0 ∧ toy.enc [] [1] ≠ toyOnBlocks.enc [] [1] :=
  ⟨fun K B _ h => by simp [toyOnBlocks, h], by decide, by decide⟩

theorem witness_PrimitiveDirection :
    ({ toy with enc := toy.dec } : Primitive).dec = toy.dec ∧ ({ toy with dec := toy.enc } : Primitive).enc = toy.enc ∧
    Instr.newEcb.op = .new ∧ Instr.encCfb ≠ .decEcb ∧ Instr.encCfb ≠ .decCbc := ⟨rfl, rfl, rfl, by decide, by decide⟩

theorem witness_EcbCbcLengths : ((ready (rep 0 16)).context .cbc).valid = true ∧ (ready (rep 0 16)).din ≠ [] ∧
    (ready (rep 0 16)).din.length % 16 = 0 ∧ (ready (rep 0 17)).din.length % 16 ≠ 0 := by decide

theorem witness_EcbDeterminism :
    (ready (rep 1 32)).ecb.valid = true ∧ (ready (rep 1 16)).ecb = (ready (rep 1 32)).ecb ∧
    prep (ready (rep 1 32)).din = .ok [rep 1 16, rep 1 16] ∧ prep (ready (rep 1 16)).din = .ok [rep 1 16] ∧
    (∃ t, execWith toy .encEcb (ready (rep 1 32)) = .next t) ∧ ∃ t, execWith toy .encEcb (ready (rep 1 16)) = .next t :=
  ⟨by decide, by decide, by decide, by decide, ⟨_, rfl⟩, ⟨_, rfl⟩⟩

/-- For EcbRoundTripIff, CbcRoundTripIff (both cases of the condition), CfbRoundTrip, OfbRoundTrip, CtrRoundTrip. -/
theorem witness_RoundTripIff :
    (∀ m, ((ready (rep 1 16)).context m).valid = true) ∧
    (∀ m, ((ready (rep 1 16)).context m).key.length = ((ready (rep 1 16)).context m).klen.bytes) ∧ (ready (rep 1 16)).din ≠ [] ∧
    unpad ((rep 1 16).drop ((rep 1 16).length - 16)) = .ok (rep 1 15) ∧ (ready (rep 1 17)).din.length % 16 ≠ 0 ∧
    unpad (rep 0 16) = .error .paddingError :=
  ⟨fun m => by cases m <;> decide, fun m => by cases m <;> decide, by decide, by decide, by decide, by decide⟩

/-- For the second state of EcbRoundTripIff, CbcRoundTripIff, CfbRoundTrip, OfbRoundTrip, CtrRoundTrip. -/
theorem witness_RoundTripSecondState : ∀ c : Bytes, (ready c).ecb = (ready [1]).ecb ∧ (ready c).cbc = (ready [1]).cbc ∧
    (ready c).cfb = (ready [1]).cfb ∧ (ready c).ofb = (ready [1]).ofb ∧ (ready c).ctr = (ready [1]).ctr ∧
    (ready c).din = c := fun _ => ⟨rfl, rfl, rfl, rfl, rfl, rfl⟩

theorem witness_CbcDiffusion :
    (ready (rep 1 48)).cbc.valid = true ∧ (ready (rep 1 48)).cbc.key.length = (ready (rep 1 48)).cbc.klen.bytes ∧
    (ready (rep 1 16 ++ rep 2 16 ++ rep 1 16)).cbc = (ready (rep 1 48)).cbc ∧
    prep (ready (rep 1 48)).din = .ok [rep 1 16, rep 1 16, rep 1 16] ∧
    prep (ready (rep 1 16 ++ rep 2 16 ++ rep 1 16)).din = .ok [rep 1 16, rep 2 16, rep 1 16] ∧
    ([rep 1 16, rep 2 16, rep 1 16] : List Bytes)[1]? ≠ ([rep 1 16, rep 1 16, rep 1 16] : List Bytes)[1]? := by decide

theorem witness_CbcDiffusion_elsewhere : ∀ j : Nat, j ≠ 1 →
    ([rep 1 16, rep 2 16, rep 1 16] : List Bytes)[j]? = ([rep 1 16, rep 1 16, rep 1 16] : List Bytes)[j]? := by
  intro j hj
  match j, hj with
  | 0, _ => rfl
  | 2, _ => rfl
  | _ + 3, _ => rfl

theorem witness_CbcCiphertextBlockReplaced :
    rep 1 32 ≠ [] ∧ (rep 1 32).length % 16 = 0 ∧ (rep 2 16 ++ rep 1 16).length = (rep 1 32).length ∧
    iv0.toList.length = 16 ∧ (chunk (rep 1 32))[0]? = some (rep 1 16) ∧
    (chunk (rep 2 16 ++ rep 1 16))[0]? = some (rep 2 16) ∧ chunk (rep 2 16 ++ rep 1 16) = [rep 2 16, rep 1 16] ∧
    chunk (rep 1 32) = [rep 1 16, rep 1 16] := by decide

theorem witness_KeystreamModes : (ready [1]).din ≠ [] ∧ (ready [1]).ofb.valid = true ∧ (ready [1]).ctr.valid = true := by
  decide

theorem witness_FirstBlockAgrees : (ready (rep 1 17)).cfb.valid = true ∧ (ready (rep 1 17)).ofb = (ready (rep 1 17)).cfb ∧
    (ready (rep 1 17)).ctr = (ready (rep 1 17)).cfb ∧ (ready (rep 1 17)).din ≠ [] := by decide

theorem witness_IndependentBlocks : p33 ≠ [] ∧ iv0.toList.length = 16 ∧ 2 < blockCount p33.length ∧
    (encBlockAt toy .ctr { key := k1, iv := iv0.toList } p33 2).isSome = true ∧
    (encBlockAt toy .ecb { key := k1, iv := [] } p33 0).isSome = true := by decide

theorem witness_ScheduleIndependence : ((ready p33).context .ctr).valid = true ∧ (ready p33).din ≠ [] ∧
    [2, 0, 1].Perm (List.range (blockCount (ready p33).din.length)) ∧ modeUnpads .ctr = false ∧ modeUnpads .cbc = true ∧
    (ready (rep 0 16)).din.length % 16 = 0 := by decide

/-- For both clauses about requests in flight: a run with two outstanding, and a chained command's run with one. -/
theorem witness_LanesChangeNoResult : 1 ≤ Config.lanes ∧ chained .enc .ctr = false ∧ chained .enc .cbc = true ∧
    (Flight.run toy 2 .enc .ctr [.issue 1, .issue 0] (Flight.start ((ready p33).start.acceptMessage.load .ctr))).map
      (fun f => f.sent.length) = some 2 ∧
    (Flight.run toy 2 .enc .cbc [.issue 0] (Flight.start ((ready p33).start.acceptMessage.load .cbc))).map
      (fun f => f.sent.length) = some 1 := ⟨by decide, rfl, rfl, rfl, rfl⟩

theorem witness_ScheduleIndependence_blocks : ∀ i, i < blockCount (ready p33).din.length →
    encBlockAt toy .ctr ((ready p33).engine .ctr) (ready p33).din i =
      some ((encBlockAt toy .ctr ((ready p33).engine .ctr) (ready p33).din i).getD []) := fun _ _ => rfl

theorem witness_FirstCommandAfterReset : ∀ m, requestIsNew (bare 0x10) m = false ∧ requestIsNew (bare 0x00) m = false := by
  intro m; cases m <;> decide

/-- For StepKeepsInvariant (and PrimitiveSeesOnlyBlocks): a state with the invariant, and steps from it. -/
theorem witness_Inv : State.reset.Inv ∧ step State.reset = .next State.reset ∧
    ∃ t, step (facing State.reset (bare 0x10)) = .next t :=
  ⟨⟨(fun m => by cases m <;> rfl), by decide, by decide, (fun e h => by cases h), ⟨[], rfl, rfl⟩, fun _ => rfl, rfl, rfl⟩, rfl,
    ⟨_, rfl⟩⟩

theorem witness_OutputCapacity : State.reset.olen ≤ 16 * ((1 + 15) / 16) ∧
    ∃ t, stepWith (some 1) (execWith toy) (facing State.reset (bare 0x10)) = .next t := ⟨by decide, ⟨_, rfl⟩⟩

theorem witness_CommandsKeepOtherContexts : (∃ t, exec .newCbc (keyed 16 none) = .next t) ∧ Mode.ecb ≠ Instr.newCbc.mode ∧
    ∃ t, exec .encCbc State.reset = .next t := ⟨⟨_, rfl⟩, by decide, ⟨_, rfl⟩⟩

theorem witness_ContextKeptUntilNextNew :
    (∀ r ∈ (facing (ready []) (bare 0x0a)).stream.take 1, requestIsNew r .cbc = false) ∧
    ∃ t, (coreWith toy none).run 1 (facing (ready []) (bare 0x0a)) = .next t :=
  ⟨by decide, ⟨_, coreWith_run_next toy none 0 rfl⟩⟩

theorem witness_ResultIsFunctionOfContextAndMessage :
    Instr.encCbc.op ≠ .new ∧ (ready [1]).context .cbc = ({ ready [1] with st := .error, fb := [7] } : State).context .cbc ∧
    (ready [1]).iv .cbc = ({ ready [1] with st := .error, fb := [7] } : State).iv .cbc := by decide

theorem witness_StepRefinesTransaction :
    (facing (ready []) { bare 0x11 with din := [1, 2] }).stream = { bare 0x11 with din := [1, 2] } :: [] ∧
    ({ bare 0x11 with din := [1, 2] } : Request).presentable (some 2) = true ∧
    ({ bare 0x11 with din := [1, 2] } : Request).presentable none = true := by decide

/-- For EnginesAreLastConstructed and ResultFixedByLastConstruction. -/
theorem witness_Runs : ∀ r ∈ [bare 0x08, { bare 0x10 with din := [1] }, bare 0x00], r.presentable (some 1) = true := by decide

end Sys2Proof.Tests
end

/-! SUPPORT. The laws of bytes, blocks and chains that the claims about whole commands cite, beyond Laws/Memory.lean and
Laws/Units.lean. -/

namespace Sys2Proof.Machine

/-! ### Byte spaces -/

/-- `MemWrite` sets the bytes at its offsets and no other (R63). -/
theorem Memory.read_writeBytes (m : Memory) (a k : Nat) (v : Bytes) :
    Memory.read (Memory.writeBytes m a v) k =
      if a ≤ k ∧ k < a + v.length then v[k - a]? else Memory.read m k := by
  induction v generalizing m a with
  | nil =>
    have h : ¬ (a ≤ k ∧ k < a + ([] : Bytes).length) := by simp
    rw [Memory.writeBytes_nil, if_neg h]
  | cons x v ih =>
    rw [Memory.writeBytes, ih, Memory.read_write]
    rcases Nat.lt_trichotomy k a with hlt | rfl | hgt
    · rw [if_neg (by omega), if_neg (by omega), if_neg (by omega)]
    · simp
    · rw [if_neg (show k ≠ a by omega)]
      obtain ⟨d, rfl⟩ := Nat.exists_eq_add_of_lt hgt
      have hd : a + d + 1 - (a + 1) = d := by omega
      have hd' : a + d + 1 - a = d + 1 := by omega
      simp only [hd, hd', List.length_cons, List.getElem?_cons_succ]
      exact if_congr (by omega) rfl rfl

@[simp] theorem Memory.holding_length (a : Nat) (v : Bytes) : (Memory.holding a v).length = v.length := by
  induction v generalizing a with
  | nil => rfl
  | cons x v ih => simp [Memory.holding, ih]

/-! ### The counter (R128) -/

theorem intOf_lt (b : Bytes) : intOf b < 256 ^ b.length := by
  induction b with
  | nil => simp [intOf]
  | cons x b ih =>
    have hx : x.toNat + 1 ≤ 256 := x.isLt
    calc intOf (x :: b) < (x.toNat + 1) * 256 ^ b.length := by rw [intOf, Nat.add_one_mul]; omega
      _ ≤ 256 * 256 ^ b.length := Nat.mul_le_mul_right _ hx
      _ = 256 ^ (x :: b).length := by rw [List.length_cons, Nat.pow_succ, Nat.mul_comm]

/-- The increment and its carry out together are the value plus one. -/
theorem intOf_incCarry (b : Bytes) : intOf (incCarry b).1 + (incCarry b).2 * 256 ^ b.length = intOf b + 1 := by
  induction b with
  | nil => rfl
  | cons x b ih =>
    have hmod : (x.toNat + (incCarry b).2) % 256 % 256 = (x.toNat + (incCarry b).2) % 256 := Nat.mod_mod _ _
    have hdiv := Nat.mod_add_div (x.toNat + (incCarry b).2) 256
    simp only [incCarry, intOf, incCarry_length, List.length_cons, BitVec.toNat_ofNat, Nat.reducePow, hmod]
    generalize (x.toNat + (incCarry b).2) % 256 = r at hdiv ⊢
    generalize (x.toNat + (incCarry b).2) / 256 = q at hdiv ⊢
    calc r * 256 ^ b.length + intOf (incCarry b).1 + q * 256 ^ (b.length + 1)
        = (r + 256 * q) * 256 ^ b.length + intOf (incCarry b).1 := by ring
      _ = (x.toNat + (incCarry b).2) * 256 ^ b.length + intOf (incCarry b).1 := by rw [hdiv]
      _ = x.toNat * 256 ^ b.length + (intOf (incCarry b).1 + (incCarry b).2 * 256 ^ b.length) := by ring
      _ = x.toNat * 256 ^ b.length + intOf b + 1 := by rw [ih, Nat.add_assoc]

/-- `INC128` is plus one modulo 2^128 (R128), for a byte string of any length. -/
theorem intOf_inc128 (b : Bytes) : intOf (inc128 b) = (intOf b + 1) % 256 ^ b.length := by
  have hlt : intOf (inc128 b) < 256 ^ b.length := by simpa using intOf_lt (inc128 b)
  rw [← intOf_incCarry b, Nat.add_mul_mod_self_right]
  exact (Nat.mod_eq_of_lt hlt).symm

/-- The bytes of a value are the byte string it is the value of. -/
theorem bytes_intOf (b : Bytes) :
    ((List.range b.length).map fun j => BitVec.ofNat 8 (intOf b / 256 ^ (b.length - 1 - j))) = b := by
  induction b with
  | nil => rfl
  | cons x b ih =>
    have hlt := intOf_lt b
    have hpos : 0 < 256 ^ b.length := by positivity
    rw [List.length_cons, List.range_succ_eq_map, List.map_cons, List.map_map]
    congr 1
    · have hdiv : intOf (x :: b) / 256 ^ b.length = x.toNat := by
        rw [intOf, Nat.mul_comm, Nat.mul_add_div hpos, Nat.div_eq_of_lt hlt, Nat.add_zero]
      simp [hdiv]
    · conv_rhs => rw [← ih]
      refine List.map_congr_left fun j hj => ?_
      have hj' := List.mem_range.1 hj
      have hexp : 256 ^ b.length = 256 ^ (b.length - 1 - j) * (256 ^ j * 256) := by
        rw [← Nat.pow_succ, ← Nat.pow_add]; congr 1; omega
      have hk : b.length + 1 - 1 - (j + 1) = b.length - 1 - j := by omega
      apply BitVec.eq_of_toNat_eq
      simp only [Function.comp_apply, Nat.succ_eq_add_one, BitVec.toNat_ofNat, hk, intOf]
      rw [hexp, show x.toNat * (256 ^ (b.length - 1 - j) * (256 ^ j * 256)) =
        256 ^ (b.length - 1 - j) * (x.toNat * 256 ^ j * 2 ^ 8) by ring, Nat.mul_add_div (by positivity),
        Nat.add_comm, Nat.add_mul_mod_self_right]

theorem blk_intOf {b : Bytes} (h : b.length = 16) : blk (intOf b) = b := by
  have e := bytes_intOf b
  rw [h] at e
  exact e

/-- `INC128` applied `i` times is counter block `i` (R128, R252). -/
theorem inc128_iterate {iv : Bytes} (h : iv.length = 16) (i : Nat) : inc128^[i] iv = counterBlock iv i := by
  have key : ∀ i, (inc128^[i] iv).length = 16 ∧ intOf (inc128^[i] iv) = (intOf iv + i) % 2 ^ 128 := by
    intro i
    induction i with
    | zero =>
      have hlt := intOf_lt iv
      rw [h] at hlt
      exact ⟨h, (Nat.mod_eq_of_lt (by simpa using hlt)).symm⟩
    | succ i ih =>
      obtain ⟨hlen, hval⟩ := ih
      rw [Function.iterate_succ_apply']
      refine ⟨by rw [inc128_length, hlen], ?_⟩
      rw [intOf_inc128, hlen, hval, show 256 ^ 16 = 2 ^ 128 by norm_num, Nat.mod_add_mod, Nat.add_assoc]
  obtain ⟨hlen, hval⟩ := key i
  rw [counterBlock, ← hval, blk_intOf hlen]

/-! ### Chains -/

/-- Where a block step hands on a function of the feedback alone, the feedback before block `i` is that function's
iterate. -/
theorem chainFb_iterate {f : Bytes → Bytes → Bytes × Bytes} {g : Bytes → Bytes} (hg : ∀ fb x, (f fb x).2 = g fb)
    (fb : Bytes) (xs : List Bytes) {i : Nat} (h : i ≤ xs.length) : chainFb f fb xs i = g^[i] fb := by
  induction i with
  | zero => simp
  | succ i ih => rw [chainFb_succ f fb xs i h, hg, ih (by omega), Function.iterate_succ_apply']

end Sys2Proof.Machine

/-! SUPPORT. The ten `ENC` and `DEC` as one command with an operation and a mode: its input blocks, its block step as a
function, its output blocks (Transaction.lean's, 00_scope.md R5), and what its block step does to the state. -/

namespace Sys2Proof.Machine

/-! ### A command as a fold of its block step -/

/-- The block step of a command as a function of the feedback and the input block (R172, R192, R212, R232, R252); ECB
hands its feedback on. -/
def cmdStep (p : Primitive) (op : Op) (m : Mode) (K : Bytes) : Bytes → Bytes → Bytes × Bytes :=
  match op, m with
  | .dec, .ecb => fun fb x => ((p.dec K x).toList, fb)
  | _, .ecb => fun fb x => ((p.enc K x).toList, fb)
  | .dec, .cbc => cbcDecStep p K
  | _, .cbc => cbcEncStep p K
  | .dec, .cfb => cfbDecStep p K
  | _, .cfb => cfbEncStep p K
  | _, .ofb => ofbStep p K
  | _, .ctr => ctrStep p K

/-- The commands that pad a short last block (R129). -/
def pads (op : Op) (m : Mode) : Bool := decide (op ≠ .dec) && modeUnpads m

/-- The commands that unpad their last block (R125). -/
def unpads (op : Op) (m : Mode) : Bool := decide (op = .dec) && modeUnpads m

/-- Input block `i` of a command: padded if short where the command pads (R129), as it was cut otherwise (R120). -/
def inputBlock (op : Op) (m : Mode) (msg : Bytes) (i : Nat) : Bytes :=
  if pads op m then padShort (messageBlock msg i) else messageBlock msg i

/-- The input blocks of a command. -/
def inputBlocks (op : Op) (m : Mode) (msg : Bytes) : List Bytes :=
  if pads op m then prepBlocks msg else chunk msg

/-- The output blocks of a command before the last one is unpadded. -/
def rawBlocks (p : Primitive) (op : Op) (m : Mode) (e : Engine) (msg : Bytes) : List Bytes :=
  chain (cmdStep p op m e.key) e.iv (inputBlocks op m msg)

/-- The output blocks of a command. -/
def outBlocks (p : Primitive) (op : Op) (m : Mode) (e : Engine) (msg : Bytes) : List Bytes :=
  if unpads op m then unpadLast (rawBlocks p op m e msg) else rawBlocks p op m e msg

/-- The feedback before block `i` of a command. -/
def feedbackAt (p : Primitive) (op : Op) (m : Mode) (e : Engine) (msg : Bytes) (i : Nat) : Bytes :=
  chainFb (cmdStep p op m e.key) e.iv (inputBlocks op m msg) i

/-- A chain that ignores its feedback is a map. -/
theorem chain_eq_map (g : Bytes → Bytes) (fb : Bytes) (xs : List Bytes) :
    chain (fun fb x => (g x, fb)) fb xs = xs.map g := by
  induction xs with
  | nil => rfl
  | cons x xs ih => rw [chain, ih, List.map_cons]

/-- The output blocks of an `ENC` are those of Transaction.lean. -/
theorem outBlocks_enc (p : Primitive) (m : Mode) (e : Engine) (msg : Bytes) :
    outBlocks p .enc m e msg = encBlocks p m e msg := by
  cases m
  case ecb => exact chain_eq_map _ _ _
  all_goals rfl

theorem rawBlocks_dec (p : Primitive) (m : Mode) (e : Engine) (msg : Bytes) :
    rawBlocks p .dec m e msg = rawDecBlocks p m e msg := by
  cases m
  case ecb => exact chain_eq_map _ _ _
  all_goals rfl

/-- The output blocks of a `DEC` are those of Transaction.lean. -/
theorem outBlocks_dec (p : Primitive) (m : Mode) (e : Engine) (msg : Bytes) :
    outBlocks p .dec m e msg = decBlocks p m e msg := by
  simp [outBlocks, decBlocks, rawBlocks_dec, unpads]

/-- No output block of ECB depends on a feedback value (R170, R171). -/
theorem outBlocks_ecb_iv (p : Primitive) (op : Op) (K iv iv' msg : Bytes) :
    outBlocks p op .ecb ⟨K, iv⟩ msg = outBlocks p op .ecb ⟨K, iv'⟩ msg := by
  have h : rawBlocks p op .ecb ⟨K, iv⟩ msg = rawBlocks p op .ecb ⟨K, iv'⟩ msg := by
    cases op <;> exact (chain_eq_map _ _ _).trans (chain_eq_map _ _ _).symm
  rw [outBlocks, outBlocks, h]

variable {p : Primitive} {op : Op} {m : Mode} {e : Engine} {msg : Bytes} {i : Nat}

@[simp] theorem inputBlocks_length : (inputBlocks op m msg).length = blockCount msg.length := by
  unfold inputBlocks; split <;> simp

theorem inputBlocks_get? (h : i < blockCount msg.length) :
    (inputBlocks op m msg)[i]? = some (inputBlock op m msg i) := by
  unfold inputBlocks inputBlock
  split
  · exact prep_block h
  · exact chunk_block h

@[simp] theorem rawBlocks_length : (rawBlocks p op m e msg).length = blockCount msg.length := by
  rw [rawBlocks, chain_length, inputBlocks_length]

@[simp] theorem outBlocks_length : (outBlocks p op m e msg).length = blockCount msg.length := by
  unfold outBlocks; split <;> simp

/-- Raw output block `i` of a command, by the feedback before it and its input block. -/
def rawBlock (p : Primitive) (op : Op) (m : Mode) (e : Engine) (msg : Bytes) (i : Nat) : Bytes :=
  (cmdStep p op m e.key (feedbackAt p op m e msg i) (inputBlock op m msg i)).1

theorem rawBlocks_get? (h : i < blockCount msg.length) :
    (rawBlocks p op m e msg)[i]? = some (rawBlock p op m e msg i) :=
  chain_get? (inputBlocks_get? h)

/-- Output block `i` of a command: the last one unpadded where the command unpads. -/
theorem outBlocks_get? (h : i < blockCount msg.length) :
    (outBlocks p op m e msg)[i]? = some (if unpads op m = true ∧ i + 1 = blockCount msg.length
      then (unpadOrRaw (rawBlock p op m e msg i)).1 else rawBlock p op m e msg i) := by
  unfold outBlocks
  by_cases hu : unpads op m = true
  · simp only [hu, if_true, true_and, unpadLast_get? (rawBlocks_get? h), rawBlocks_length]
  · simp only [hu, if_false, false_and, Bool.false_eq_true, rawBlocks_get? h]

@[simp] theorem feedbackAt_zero : feedbackAt p op m e msg 0 = e.iv := chainFb_zero _ _ _

theorem feedbackAt_succ (h : i < blockCount msg.length) :
    feedbackAt p op m e msg (i + 1) =
      (cmdStep p op m e.key (feedbackAt p op m e msg i) (inputBlock op m msg i)).2 :=
  chainFb_get? (inputBlocks_get? h)

/-! ### Lengths -/

/-- In CBC every feedback value a block reads has 16 bytes (R23): the IV, an answer of the primitive, or a ciphertext
block that is not the last. -/
theorem feedbackAt_cbc_length (hiv : e.iv.length = 16) (h : i < blockCount msg.length) :
    (feedbackAt p op .cbc e msg i).length = 16 := by
  cases i with
  | zero => rw [feedbackAt_zero, hiv]
  | succ j =>
    rw [feedbackAt_succ (by omega)]
    cases op
    case dec => exact messageBlock_length h
    all_goals exact Vector.length_toList

/-- How long raw output block `i` is: 16 bytes in ECB and CBC, as long as its input block elsewhere. -/
theorem rawBlock_length (hiv : m = .cbc → e.iv.length = 16) (h : i < blockCount msg.length) :
    (rawBlock p op m e msg i).length = if modeUnpads m then 16 else (messageBlock msg i).length := by
  have hle := messageBlock_length_le msg i
  cases m
  case ecb => cases op <;> exact Vector.length_toList
  case cbc =>
    cases op
    case dec =>
      have hfb := feedbackAt_cbc_length (p := p) (op := .dec) (hiv rfl) h
      simp [rawBlock, cmdStep, cbcDecStep, modeUnpads, hfb]
    all_goals exact Vector.length_toList
  all_goals
    cases op <;>
      simp [rawBlock, cmdStep, cfbEncStep, cfbDecStep, ofbStep, ctrStep, inputBlock, pads, modeUnpads, hle]

theorem unpad_length_le {b x : Bytes} (h : unpad b = .ok x) : x.length ≤ b.length := by
  unfold unpad at h
  split at h
  · cases h
  split at h
  · cases h
  split at h
  · cases h
  split at h
  · cases h
    simp
  · cases h

theorem unpadOrRaw_length_le (b : Bytes) : (unpadOrRaw b).1.length ≤ b.length := by
  unfold unpadOrRaw
  split
  · next x hx => exact unpad_length_le hx
  · exact Nat.le_refl _

/-- A block that is not the last comes out with 16 bytes (R26). -/
theorem outBlocks_full (hiv : m = .cbc → e.iv.length = 16) (h : i + 1 < blockCount msg.length) {y : Bytes}
    (hy : (outBlocks p op m e msg)[i]? = some y) : y.length = 16 := by
  rw [outBlocks_get? (by omega), if_neg (by omega)] at hy
  rw [← Option.some.inj hy, rawBlock_length hiv (by omega), messageBlock_length h, ite_self]

/-- No block comes out with more than 16 bytes (R26). -/
theorem outBlocks_length_le (hiv : m = .cbc → e.iv.length = 16) (h : i < blockCount msg.length) {y : Bytes}
    (hy : (outBlocks p op m e msg)[i]? = some y) : y.length ≤ 16 := by
  have hraw : (rawBlock p op m e msg i).length ≤ 16 := by
    rw [rawBlock_length hiv h]
    split
    · exact Nat.le_refl _
    · exact messageBlock_length_le msg i
  rw [outBlocks_get? h] at hy
  rw [← Option.some.inj hy]
  split
  · exact (unpadOrRaw_length_le _).trans hraw
  · exact hraw

/-! ### The block step of a command -/

/-- What the block step of a command does with input block `x`: `t` after `u` (R23 to R26, R28). -/
structure BlockStepped (p : Primitive) (op : Op) (m : Mode) (x : Bytes) (u t : State) : Prop where
  frame : t.frame = u.frame
  idx : t.idx = u.idx
  fb : t.fb = (cmdStep p op m (u.context m).primKey u.fb x).2
  yb : t.yb = if unpads op m = true ∧ u.idx + 1 = u.nblk
    then (unpadOrRaw (cmdStep p op m (u.context m).primKey u.fb x).1).1
    else (cmdStep p op m (u.context m).primKey u.fb x).1
  obuf : t.obuf = Memory.writeBytes u.obuf (blockOffset u.idx) t.yb
  utag : t.utag = if unpads op m = true ∧ u.idx + 1 = u.nblk
    then (unpadOrRaw (cmdStep p op m (u.context m).primKey u.fb x).1).2 else u.utag

/-- The output step of a command that does not unpad, after registers `u'` of the block step of `u`. -/
theorem blockStepped_emit {u u' : State} {x y fb : Bytes} (hu : unpads op m = false)
    (hframe : u'.frame = u.frame) (hidx : u'.idx = u.idx) (hobuf : u'.obuf = u.obuf) (hutag : u'.utag = u.utag)
    (h : cmdStep p op m (u.context m).primKey u.fb x = (y, fb)) :
    BlockStepped p op m x u ((u'.emit y).feedback fb) where
  frame := hframe
  idx := hidx
  fb := by rw [h]; rfl
  yb := by rw [h, hu]; rfl
  obuf := by rw [← hobuf, ← hidx]; rfl
  utag := by rw [hu]; exact hutag

/-- The output step of a command that unpads, after registers `u'` of the block step of `u`. -/
theorem blockStepped_emitUnpadded {u u' : State} {x y fb : Bytes} (hu : unpads op m = true)
    (hframe : u'.frame = u.frame) (hidx : u'.idx = u.idx) (hobuf : u'.obuf = u.obuf) (hutag : u'.utag = u.utag)
    (h : cmdStep p op m (u.context m).primKey u.fb x = (y, fb)) :
    BlockStepped p op m x u ((u'.emitUnpadded y).feedback fb) := by
  have hnblk := State.frame_nblk hframe
  have hyb := u'.emitUnpadded_yb y
  have hobuf' := u'.emitUnpadded_obuf y
  rw [← hyb, hidx, hobuf] at hobuf'
  rw [State.unpadded, hidx, hnblk] at hyb
  have hutag' := u'.emitUnpadded_utag y
  rw [hidx, hnblk, hutag] at hutag'
  exact {
    frame := (u'.emitUnpadded_frame y).trans hframe
    idx := (u'.emitUnpadded_idx y).trans hidx
    fb := by rw [h]; rfl
    yb := by rw [h]; simpa [hu] using hyb
    obuf := hobuf'
    utag := by rw [h]; simpa [hu] using hutag' }

/-- Handing on the feedback that is there changes nothing: ECB's block steps (R170, R171). -/
theorem State.feedback_self {t : State} {v : Bytes} (h : t.fb = v) : t.feedback v = t := by
  subst h; rfl

/-- The block step of every command, on a state with a block to go, does not fail and does its part. -/
theorem blockStepOf_ok {u : State} (hop : op ≠ .new) (h : InBlocks msg u) (hfb : m = .cbc → u.fb.length = 16) :
    ∃ t, blockStepOf p op m u = .ok t ∧ BlockStepped p op m (inputBlock op m msg u.idx) u t := by
  cases op with
  | new => exact absurd rfl hop
  | enc =>
    cases m with
    | ecb =>
      refine ⟨_, encEcbBlock_ok h, ?_⟩
      rw [← State.feedback_self (State.emit_fb _ _)]
      apply blockStepped_emit (hframe := (State.encrypt_frame _ _ _ _).trans (State.latchBlock_frame _ _)) <;> rfl
    | cbc =>
      refine ⟨_, encCbcBlock_ok h (hfb rfl), ?_⟩
      apply blockStepped_emit (hframe := (State.encrypt_frame _ _ _ _).trans (State.latchBlock_frame _ _)) <;> rfl
    | cfb => refine ⟨_, encCfbBlock_ok h, ?_⟩; apply blockStepped_emit <;> rfl
    | ofb => refine ⟨_, encOfbBlock_ok h, ?_⟩; apply blockStepped_emit <;> rfl
    | ctr => refine ⟨_, encCtrBlock_ok h, ?_⟩; apply blockStepped_emit <;> rfl
  | dec =>
    cases m with
    | ecb =>
      refine ⟨_, decEcbBlock_ok h, ?_⟩
      rw [← State.feedback_self (State.emitUnpadded_fb _ _)]
      apply blockStepped_emitUnpadded <;> rfl
    | cbc => refine ⟨_, decCbcBlock_ok h (hfb rfl), ?_⟩; apply blockStepped_emitUnpadded <;> rfl
    | cfb => refine ⟨_, decCfbBlock_ok h, ?_⟩; apply blockStepped_emit <;> rfl
    | ofb => refine ⟨_, decOfbBlock_ok h, ?_⟩; apply blockStepped_emit <;> rfl
    | ctr => refine ⟨_, decCtrBlock_ok h, ?_⟩; apply blockStepped_emit <;> rfl

end Sys2Proof.Machine

/-! SUPPORT. Every `ENC` and `DEC` on the block-indexed machine (10_state.md R28): how it ends, and with which output. -/

namespace Sys2Proof.Machine

variable {p : Primitive} {op : Op} {m : Mode} {e : Engine} {s : State}

/-! ### The ten commands as one -/

theorem Instr.of_op_mode (i : Instr) : Instr.of i.op i.mode = i := by cases i <;> rfl

@[simp] theorem Instr.of_op (op : Op) (m : Mode) : (Instr.of op m).op = op := by cases op <;> cases m <;> rfl

@[simp] theorem Instr.of_mode (op : Op) (m : Mode) : (Instr.of op m).mode = m := by cases op <;> cases m <;> rfl

/-- The length check of a command (R67). -/
def messageCheck (op : Op) (m : Mode) : Nat → Option ErrName :=
  match op with
  | .dec => decCheck m
  | _ => nonEmptyCheck

theorem messageCheck_enc : messageCheck .enc m = nonEmptyCheck := rfl

theorem messageCheck_dec : messageCheck .dec m = decCheck m := rfl

/-- `OLEN` of a command that succeeds, read off the state after its last block (R28). -/
def messageLength (op : Op) (m : Mode) (t : State) : Nat :=
  if pads op m then 16 * t.nblk
  else if unpads op m then 16 * (t.nblk - 1) + t.yb.length
  else t.ilen

/-- Every `ENC` and `DEC` is `runMessage` with its own check, block step and output length (R28). -/
theorem execWith_message (hop : op ≠ .new) :
    execWith p (Instr.of op m) s = runMessage m (messageCheck op m) (blockStepOf p op m) (messageLength op m) s := by
  cases op with
  | new => exact absurd rfl hop
  | enc => cases m <;> rfl
  | dec => cases m <;> rfl

/-- A message that passes its length check is not empty (R274). -/
theorem blockCount_pos_of_check {n : Nat} (h : messageCheck op m n = none) : 0 < blockCount n := by
  refine blockCount_pos ?_
  rintro rfl
  cases op
  case dec => cases m <;> cases h
  all_goals cases h

/-! ### The BLOCK phase -/

/-- The engine a BLOCK phase runs with: in ECB its feedback value is what `FB` holds, which no block reads (R23). -/
def State.loadedEngine (s : State) (m : Mode) : Engine where
  key := (s.context m).primKey
  iv := (s.loaded m).fb

theorem State.loadedEngine_eq (h : m ≠ .ecb) : s.loadedEngine m = s.engine m := by
  cases m
  case ecb => exact absurd rfl h
  all_goals rfl

theorem State.outBlocks_loadedEngine :
    outBlocks p op m (s.loadedEngine m) s.din = outBlocks p op m (s.engine m) s.din := by
  by_cases h : m = .ecb
  · subst h; exact outBlocks_ecb_iv p op _ _ _ s.din
  · rw [State.loadedEngine_eq h]

theorem State.engine_iv_length (h : m ≠ .ecb) : (s.engine m).iv.length = 16 := by
  cases m
  case ecb => exact absurd rfl h
  all_goals exact Vector.length_toList

theorem State.loadedEngine_iv_length (h : m ≠ .ecb) : (s.loadedEngine m).iv.length = 16 := by
  rw [State.loadedEngine_eq h, State.engine_iv_length h]

/-- The tag of the last block of a command that unpads (R36). -/
def lastTag (p : Primitive) (op : Op) (m : Mode) (e : Engine) (msg : Bytes) : UnpadTag :=
  (unpadOrRaw (rawBlock p op m e msg (blockCount msg.length - 1))).2

/-- One block step of a command, on a state that differs from the loaded one in block registers only and whose `FB` is the
feedback before its block: what `StepAt` says, and the tag of the last block where the command unpads. -/
theorem blockStepOf_stepAt {u : State} (hop : op ≠ .new) (hkey : e.key = (s.context m).primKey)
    (hiv : m = .cbc → e.iv.length = 16) (hframe : u.frame = (s.loaded m).frame)
    (hidx : u.idx < blockCount s.din.length) (hfb : u.fb = feedbackAt p op m e s.din u.idx) :
    ∃ t, blockStepOf p op m u = .ok t ∧
      StepAt (s.loaded m) (outBlocks p op m e s.din) (feedbackAt p op m e s.din) u.idx u t ∧
      t.utag = if unpads op m = true ∧ u.idx + 1 = blockCount s.din.length
        then lastTag p op m e s.din else u.utag := by
  have hin : InBlocks s.din u := ⟨State.frame_ibuf hframe, State.frame_ilen hframe, hidx⟩
  have hfb16 : m = .cbc → u.fb.length = 16 := by
    rintro rfl
    rw [hfb, feedbackAt_cbc_length (hiv rfl) hidx]
  have hcontext : (u.context m).primKey = e.key := by
    rw [State.frame_context hframe, State.loaded_context, hkey]
  have hnblk : u.nblk = blockCount s.din.length := State.frame_nblk hframe
  obtain ⟨t, ht, hs⟩ := blockStepOf_ok (p := p) hop hin hfb16
  have htfb := hs.fb
  have htyb := hs.yb
  have htag := hs.utag
  rw [hcontext, hfb, ← feedbackAt_succ hidx] at htfb
  rw [hcontext, hfb, hnblk, ← rawBlock] at htyb htag
  refine ⟨t, ht, ⟨hs.frame.trans hframe, hs.idx, htfb, ?_, hs.obuf⟩, ?_⟩
  · rw [htyb, outBlocks_get? hidx]
  · rw [htag]
    refine ite_congr rfl (fun h => ?_) fun _ => rfl
    rw [lastTag, ← h.2, Nat.add_sub_cancel]

/-- The last block of a message is what the full blocks before it leave (R120). -/
theorem messageBlock_last_length {msg : Bytes} {n : Nat} (h : blockCount msg.length = n + 1) :
    (messageBlock msg n).length + 16 * n = msg.length := by
  have hlow := lt_blockCount.1 (show n < blockCount msg.length by omega)
  have hhigh : msg.length ≤ 16 * (n + 1) :=
    Nat.le_of_not_lt fun hc => absurd (lt_blockCount.2 hc) (by omega)
  simp only [messageBlock, List.length_take, List.length_drop]
  omega

/-- The output of a command is its full blocks and the last one. -/
theorem outBlocks_flatten_length {msg y : Bytes} {n : Nat} (hiv : m = .cbc → e.iv.length = 16)
    (hn : blockCount msg.length = n + 1) (hy : (outBlocks p op m e msg)[n]? = some y) :
    (outBlocks p op m e msg).flatten.length = 16 * n + y.length := by
  have hfull := flatten_take_length outBlocks_length (fun j y hj hy => outBlocks_full (p := p) (op := op) hiv hj hy) n
    (show n < blockCount msg.length by omega)
  have htake : (outBlocks p op m e msg).take (n + 1) = outBlocks p op m e msg :=
    List.take_of_length_le (by rw [outBlocks_length, hn])
  rw [← hfull]
  conv_lhs => rw [← htake, List.take_add_one, hy]
  rw [List.flatten_append, List.length_append]
  simp

/-- A command writes as many bytes as its output length says (R170, R171, R190, R191, R210, R230, R250). -/
theorem messageLength_eq {u : State} {fbs : Nat → Bytes} (hpos : 0 < blockCount s.din.length)
    (hiv : m = .cbc → e.iv.length = 16)
    (h : LoopAt (s.loaded m) (outBlocks p op m e s.din) fbs (blockCount s.din.length) u) :
    messageLength op m u = (outBlocks p op m e s.din).flatten.length := by
  obtain ⟨n, hn⟩ := Nat.exists_eq_add_of_lt hpos
  rw [Nat.zero_add] at hn
  have hlt : n < blockCount s.din.length := by omega
  have hlast := h.yb n hn
  have hnblk : u.nblk = n + 1 := (State.frame_nblk h.frame).trans hn
  have hilen : u.ilen = s.din.length := State.frame_ilen h.frame
  have hraw := rawBlock_length (p := p) (op := op) hiv hlt
  have hblock := messageBlock_last_length hn
  rw [outBlocks_flatten_length hiv hn hlast, messageLength, hnblk, hilen]
  rw [outBlocks_get? hlt, Option.some.injEq] at hlast
  cases hm : modeUnpads m with
  | false =>
    have hyb : u.yb.length = (messageBlock s.din n).length := by simpa [← hlast, unpads, hm] using hraw
    simp [pads, unpads, hm, hyb]
    omega
  | true =>
    by_cases hd : op = .dec
    · simp [pads, unpads, hm, hd]
    · have hyb : u.yb.length = 16 := by simpa [← hlast, unpads, hm, hd] using hraw
      simp [pads, hm, hd, hyb]
      omega

/-- An `ENC` or `DEC` on a valid context whose length check passes completes with its output blocks. -/
theorem execWith_completed (hop : op ≠ .new) (hv : (s.context m).valid = true)
    (hc : messageCheck op m s.din.length = none) :
    ∃ u, blockLoop (blockStepOf p op m) (blockCount s.din.length) (s.loaded m) = .ok u ∧
      LoopAt (s.loaded m) (outBlocks p op m (s.engine m) s.din) (feedbackAt p op m (s.loadedEngine m) s.din)
        (blockCount s.din.length) u ∧
      execWith p (Instr.of op m) s =
        .next (u.succeed (outBlocks p op m (s.engine m) s.din).flatten.length).dropMessage.dropBlocks ∧
      Completed s (u.succeed (outBlocks p op m (s.engine m) s.din).flatten.length).dropMessage.dropBlocks
        (outBlocks p op m (s.engine m) s.din).flatten := by
  have hiv : m = .cbc → (s.loadedEngine m).iv.length = 16 := fun h => State.loadedEngine_iv_length (by simp [h])
  rw [execWith_message hop, ← State.outBlocks_loadedEngine]
  refine runMessage_ok hv hc outBlocks_length (fun j y hj hy => outBlocks_full hiv hj hy) (feedbackAt_zero (e := s.loadedEngine m)).symm ?_
    fun u hu => messageLength_eq (blockCount_pos_of_check hc) hiv hu
  intro i u hi hu
  obtain ⟨hframe, rfl, hfb, -, -⟩ := hu
  obtain ⟨t, ht, hstep, -⟩ := blockStepOf_stepAt hop rfl hiv hframe hi hfb
  exact ⟨t, ht, hstep⟩

/-- An `ENC` or `DEC` on an invalid context (R278). -/
theorem execWith_noEngine (hop : op ≠ .new) (hv : (s.context m).valid = false) :
    execWith p (Instr.of op m) s = .next (s.start.acceptMessage.raise .noEngine).dropMessage := by
  rw [execWith_message hop, runMessage_noEngine hv]

/-- An `ENC` or `DEC` on a valid context whose length check fails (R274, R275). -/
theorem execWith_checked (hop : op ≠ .new) (hv : (s.context m).valid = true) {x : ErrName}
    (hc : messageCheck op m s.din.length = some x) :
    execWith p (Instr.of op m) s = .next (s.start.acceptMessage.raise x).dropMessage := by
  rw [execWith_message hop, runMessage_checked hv hc]

end Sys2Proof.Machine

/-! The block-indexed state machine and the one-function-per-command form agree (00_scope.md R5): StepRefinesTransaction. -/

namespace Sys2Proof.Machine

variable {p : Primitive} {op : Op} {m : Mode} {r : Request} {s t : State}

/-! ### The one-function-per-command form, case by case -/

theorem transact_illegal {c : Engines} {x : DecodeError} (h : decode r.word = .error x) :
    transact p r c = (c, .err .illegalCommand) := by
  simp only [transact, h]

theorem transact_new_ok {c : Engines} {e : Engine} (h : decode r.word = .ok (Instr.of .new m))
    (hc : construction m r.keyIn r.ivIn = .ok e) :
    transact p r c = (fun k => if k = m then some e else c k, .ok []) := by
  simp only [transact, h, Instr.of_op, Instr.of_mode, hc]

theorem transact_new_error {c : Engines} {x : ErrName} (h : decode r.word = .ok (Instr.of .new m))
    (hc : construction m r.keyIn r.ivIn = .error x) :
    transact p r c = (fun k => if k = m then none else c k, .err x) := by
  simp only [transact, h, Instr.of_op, Instr.of_mode, hc]

theorem transact_noEngine {c : Engines} (hop : op ≠ .new) (h : decode r.word = .ok (Instr.of op m))
    (hc : c m = none) : transact p r c = (c, .err .noEngine) := by
  cases op with
  | new => exact absurd rfl hop
  | enc | dec => simp only [transact, h, Instr.of_op, Instr.of_mode, hc]

theorem transact_checked {c : Engines} {e : Engine} {x : ErrName} (hop : op ≠ .new)
    (h : decode r.word = .ok (Instr.of op m)) (hc : c m = some e) (hx : messageCheck op m r.din.length = some x) :
    transact p r c = (c, .err x) := by
  cases op with
  | new => exact absurd rfl hop
  | enc | dec =>
    simp only [messageCheck_enc, messageCheck_dec] at hx
    simp only [transact, h, Instr.of_op, Instr.of_mode, hc, hx]

theorem transact_completed {c : Engines} {e : Engine} (hop : op ≠ .new) (h : decode r.word = .ok (Instr.of op m))
    (hc : c m = some e) (hx : messageCheck op m r.din.length = none) :
    transact p r c = (c, .ok (outBlocks p op m e r.din).flatten) := by
  cases op with
  | new => exact absurd rfl hop
  | enc =>
    rw [messageCheck_enc] at hx
    simp only [transact, h, Instr.of_op, Instr.of_mode, hc, hx, encOut, outBlocks_enc]
  | dec =>
    rw [messageCheck_dec] at hx
    simp only [transact, h, Instr.of_op, Instr.of_mode, hc, hx, decOut, outBlocks_dec]

/-! ### The engines a state holds -/

theorem State.engines_of_valid (h : (s.context m).valid = true) : s.engines m = some (s.engine m) := if_pos h

theorem State.engines_of_invalid (h : (s.context m).valid = false) : s.engines m = none := by
  simp [State.engines, h]

/-- Which engine a context stands for is a matter of that context alone (R29). -/
theorem State.engines_congr {k : Mode} (hc : t.context k = s.context k) (hi : t.iv k = s.iv k) :
    t.engines k = s.engines k := by
  simp only [State.engines, State.engine, hc, hi]

theorem SameContexts.engines (h : SameContexts s t) : t.engines = s.engines := by
  obtain ⟨hecb, hcbc, hcfb, hofb, hctr⟩ := h
  funext k
  apply State.engines_congr <;> cases k <;> simp only [State.context, State.iv, hecb, hcbc, hcfb, hofb, hctr]

/-- An update that writes context `m` and no other changes the engine of `m` and no other (R159). -/
theorem State.engines_update {x : Option Engine} (h : t.engines m = x)
    (hc : ∀ k, k ≠ m → t.context k = s.context k) (hi : ∀ k, k ≠ m → t.iv k = s.iv k) :
    t.engines = fun k => if k = m then x else s.engines k := by
  funext k
  by_cases hk : k = m
  · rw [hk, h, if_pos rfl]
  · rw [if_neg hk, State.engines_congr (hc k hk) (hi k hk)]

/-! ### What a command shows and keeps -/

/-- `t`, left by a command on `s`, holds the engines and shows the result of `c`, and no request was taken. -/
structure Shows (s t : State) (c : Engines × Result) : Prop where
  stream : t.stream = s.stream
  engines : t.engines = c.1
  result : t.result = some c.2

theorem Completed.shows {out : Bytes} (h : Completed s t out) : Shows s t (s.engines, .ok out) where
  stream := h.hostSide.stream
  engines := h.contexts.engines
  result := by simp [State.result, State.dout, h.st, h.obuf, h.olen]

theorem MessageFailed.shows {x : ErrName} (h : MessageFailed s t x) : Shows s t (s.engines, .err x) where
  stream := h.hostSide.stream
  engines := h.contexts.engines
  result := by simp [State.result, h.st, h.err]

/-- Releasing `CMDR` is seen on no port and in no context. -/
theorem Shows.releaseWord {c : Engines × Result} (h : Shows s t c) : Shows s t.releaseWord c where
  stream := h.stream
  engines := (SameContexts.engines ⟨rfl, rfl, rfl, rfl, rfl⟩ : t.releaseWord.engines = t.engines).trans h.engines
  result := h.result

theorem shows_illegal (s : State) : Shows s s.illegal (s.engines, .err .illegalCommand) where
  stream := rfl
  engines := SameContexts.engines ⟨rfl, rfl, rfl, rfl, rfl⟩
  result := rfl

/-- An `ENC` or `DEC` shows what its function says (R5). -/
theorem execWith_message_shows (hop : op ≠ .new) (h : decode r.word = .ok (Instr.of op m)) (hdin : s.din = r.din) :
    ∃ t, execWith p (Instr.of op m) s = .next t ∧ Shows s t (transact p r s.engines) := by
  cases hv : (s.context m).valid with
  | false =>
    rw [transact_noEngine hop h (State.engines_of_invalid hv)]
    exact ⟨_, execWith_noEngine hop hv, (messageFailed_of_raise s _).shows⟩
  | true =>
    have he := State.engines_of_valid hv
    cases hx : messageCheck op m s.din.length with
    | some x =>
      rw [transact_checked hop h he (hdin ▸ hx)]
      exact ⟨_, execWith_checked hop hv hx, (messageFailed_of_raise s x).shows⟩
    | none =>
      obtain ⟨u, -, -, hexec, hcompleted⟩ := execWith_completed (p := p) hop hv hx
      rw [transact_completed hop h he (hdin ▸ hx), ← hdin]
      exact ⟨_, hexec, hcompleted.shows⟩

/-! ### Construction -/

/-- A key of the length its code stands for is handed to the primitive whole (R21). -/
theorem KeyContext.primKey_install {kl : KeyLen} {key : Bytes} (h : key.length = kl.bytes) :
    KeyContext.primKey { valid := true, klen := kl, key := key } = key :=
  List.take_of_length_le (Nat.le_of_eq h)

/-- A failing `NEW.<m>` invalidates its context and no other (R157). -/
theorem shows_invalidate (m : Mode) (s : State) (x : ErrName) :
    Shows s ((s.start.invalidate m).raise x) (fun k => if k = m then none else s.engines k, .err x) where
  stream := by simp [State.invalidate]
  engines := by
    refine State.engines_update (State.engines_of_invalid ?_) ?_ ?_
    · simp [State.invalidate, State.withContext_context]
    · intro k hk; simp [State.invalidate, State.withContext_context, hk]
    · intro k _; simp [State.invalidate]
  result := by simp [State.result]

/-- A successful `NEW.<m>` installs its engine and changes no other context (R158); `b` is the state with the context
written. -/
theorem shows_install {kl : KeyLen} {iv : Bytes} {b : State} (hkey : s.keyIn.length = kl.bytes)
    (hstream : b.stream = s.stream) (hobuf : b.obuf = [])
    (hcontext : ∀ k, b.context k = if k = m then { valid := true, klen := kl, key := s.keyIn } else s.context k)
    (hother : ∀ k, k ≠ m → b.iv k = s.iv k) (hiv : (b.engine m).iv = iv) :
    Shows s (b.succeed 0) (fun k => if k = m then some ⟨s.keyIn, iv⟩ else s.engines k, .ok []) where
  stream := hstream
  engines := by
    have hm := hcontext m
    rw [if_pos rfl] at hm
    have hengine : b.engine m = ⟨s.keyIn, iv⟩ := by
      rw [← hiv, ← KeyContext.primKey_install hkey, ← hm]; rfl
    have hsame : (b.succeed 0).engines = b.engines := SameContexts.engines ⟨rfl, rfl, rfl, rfl, rfl⟩
    rw [hsame]
    refine State.engines_update ?_ (fun k hk => by rw [hcontext, if_neg hk]) hother
    rw [State.engines_of_valid (by rw [hm]), hengine]
  result := by simp [State.result, State.dout, hobuf, Memory.readBytes]

theorem construction_badKey {keyIn : Bytes} {ivIn : Option Bytes} (h16 : keyIn.length ≠ 16)
    (h24 : keyIn.length ≠ 24) (h32 : keyIn.length ≠ 32) :
    construction m keyIn ivIn = .error .invalidKeyLength := by
  simp [construction, KeyLen.ofLength, h16, h24, h32]

/-- `NEW.<m>` with a key of a valid length, by what its IV operand is (R150). -/
theorem construction_ignored {keyIn : Bytes} {ivIn : Option Bytes} {kl : KeyLen} (hkey : keyIn.length = kl.bytes)
    (h : ivOperand m ivIn = .ignored) : construction m keyIn ivIn = .ok ⟨keyIn, []⟩ := by
  simp [construction, hkey, h]

theorem construction_given {keyIn : Bytes} {ivIn : Option Bytes} {kl : KeyLen} {iv : Block}
    (hkey : keyIn.length = kl.bytes) (h : ivOperand m ivIn = .given iv) :
    construction m keyIn ivIn = .ok ⟨keyIn, iv.toList⟩ := by
  simp [construction, hkey, h]

theorem construction_wrong {keyIn : Bytes} {ivIn : Option Bytes} {kl : KeyLen} (hkey : keyIn.length = kl.bytes)
    (h : ivOperand m ivIn = .wrong) : construction m keyIn ivIn = .error .invalidIVLength := by
  simp [construction, hkey, h]

/-- `NEW.<m>` shows what its function says (R5, R150). -/
theorem construct_shows (h : decode r.word = .ok (Instr.of .new m)) (hkey : s.keyIn = r.keyIn)
    (hiv : s.ivIn = r.ivIn) : Shows s (s.construct m) (transact p r s.engines) := by
  rcases KeyLen.ofLength_cases r.keyIn.length with ⟨hlen, h16, h24, h32⟩ | ⟨kl, hlen, hbytes⟩
  · rw [transact_new_error h (construction_badKey h16 h24 h32)]
    simpa [State.construct, hkey, hlen] using shows_invalidate m s .invalidKeyLength
  rcases ivOperand_cases m r.ivIn with ⟨rfl, ho⟩ | ⟨hm, b, -, ho⟩ | ⟨hm, -, ho⟩
  · rw [transact_new_ok h (construction_ignored hbytes ho), ← hkey]
    have hs : s.construct .ecb = (s.start.install .ecb kl).succeed 0 := by
      simp [State.construct, hkey, hiv, hlen, ho]
    rw [hs]
    refine shows_install (by rw [hkey, hbytes]) rfl rfl (fun k => ?_) (fun k _ => ?_) rfl
    · simp [State.install, State.withContext_context]
    · simp [State.install]
  · rw [transact_new_ok h (construction_given hbytes ho), ← hkey]
    have hs : s.construct m = ((s.start.install m kl).withIv m b).succeed 0 := by
      simp [State.construct, hkey, hiv, hlen, ho]
    rw [hs]
    refine shows_install (by rw [hkey, hbytes]) (by simp [State.install]) (by simp [State.install]) (fun k => ?_)
      (fun k hk => ?_) ?_
    · simp [State.install, State.withContext_context]
    · simp [State.install, State.withIv_iv, hk]
    · simp [State.engine, State.withIv_iv, hm]
  · rw [transact_new_error h (construction_wrong hbytes ho)]
    simpa [State.construct, hkey, hiv, hlen, ho] using shows_invalidate m s .invalidIVLength

/-! ### The step -/

/-- Every latched word shows what its function says (R5). -/
theorem runLatched_shows (hword : s.cmdr = r.word) (hkey : s.keyIn = r.keyIn) (hiv : s.ivIn = r.ivIn)
    (hdin : s.din = r.din) :
    ∃ t, runLatched (execWith p) s = .next t ∧ Shows s t (transact p r s.engines) := by
  rw [runLatched, hword]
  cases h : decode r.word with
  | error x => exact ⟨_, rfl, transact_illegal (p := p) (c := s.engines) h ▸ shows_illegal s⟩
  | ok i =>
    rw [← Instr.of_op_mode i] at h ⊢
    by_cases hop : i.op = .new
    · rw [hop] at h ⊢
      exact ⟨_, execWith_new p i.mode s, construct_shows h hkey hiv⟩
    · exact execWith_message_shows hop h hdin

/-- Settles O57: after acceptance the latched command shows what `transact` says, case by case over the command word, and
neither acceptance nor the release of `CMDR` touches a context. -/
theorem stepRefinesTransaction : Obligations.StepRefinesTransaction := by
  intro p bound s r rest hstream hfits
  obtain ⟨t, ht, hshows⟩ := runLatched_shows (p := p) (r := r) (s := s.accept r rest) rfl rfl rfl rfl
  have haccept : (s.accept r rest).engines = s.engines := SameContexts.engines ⟨rfl, rfl, rfl, rfl, rfl⟩
  rw [haccept] at hshows
  obtain ⟨hrest, hengines, hresult⟩ := hshows.releaseWord
  refine ⟨t.releaseWord, ?_, hrest, hengines, hresult⟩
  simp only [stepWith, hstream, hfits, if_true, ht, completeWord]

end Sys2Proof.Machine

/-! SUPPORT. The blocks of an `ENC` or `DEC` done in any order (20_memory.md R78, 70_reset_and_hazards.md R316): the state
after a set of blocks, and that it depends on the set alone. -/

namespace Sys2Proof.Machine

variable {p : Primitive} {op : Op} {m : Mode} {e : Engine} {s u : State} {D : List Nat} {i : Nat}

/-- The state after the blocks of `D`, in whatever order: each done block stands in `OBUF` at its own offset, and the tag
is that of the last block where the command unpads and that block is done. -/
structure BlocksDone (p : Primitive) (op : Op) (m : Mode) (e : Engine) (s : State) (D : List Nat) (u : State) :
    Prop where
  frame : u.frame = (s.loaded m).frame
  obufWf : Memory.wf u.obuf = true
  obuf : ∀ a, Memory.read u.obuf a =
    if a / 16 ∈ D then ((outBlocks p op m e s.din).getD (a / 16) [])[a % 16]? else none
  utag : u.utag = if unpads op m = true ∧ blockCount s.din.length - 1 ∈ D
    then lastTag p op m e s.din else (s.loaded m).utag

theorem blocksDone_nil : BlocksDone p op m e s [] (s.loaded m) where
  frame := rfl
  obufWf := rfl
  obuf a := by simp
  utag := by simp

/-- Only which blocks are done matters, not in which order. -/
theorem BlocksDone.congr {D' : List Nat} (h : BlocksDone p op m e s D u) (hD : ∀ i, i ∈ D ↔ i ∈ D') :
    BlocksDone p op m e s D' u where
  frame := h.frame
  obufWf := h.obufWf
  obuf a := by rw [h.obuf, if_congr (hD _) rfl rfl]
  utag := by rw [h.utag, if_congr (and_congr_right fun _ => hD _) rfl rfl]

/-- A byte of `OBUF` after a block of up to 16 bytes has been written at its offset `16*i`. -/
theorem read_writeBytes_block {b : Memory} {y : Bytes} {a : Nat} (hy : y.length ≤ 16) :
    Memory.read (Memory.writeBytes b (blockOffset i) y) a =
      if a / 16 = i ∧ a % 16 < y.length then y[a % 16]? else Memory.read b a := by
  rw [Memory.read_writeBytes, blockOffset]
  have hiff : 16 * i ≤ a ∧ a < 16 * i + y.length ↔ a / 16 = i ∧ a % 16 < y.length := by omega
  rw [if_congr hiff rfl rfl]
  split
  · next h => rw [show a - 16 * i = a % 16 by omega]
  · rfl

/-- One more block: on a state with the blocks of `D` done, the block step of another block with that block's feedback does
not fail, hands on the feedback of the block after it, and leaves that block done too. -/
theorem BlocksDone.step (h : BlocksDone p op m e s D u) (hop : op ≠ .new) (hkey : e.key = (s.context m).primKey)
    (hiv : m = .cbc → e.iv.length = 16) (hi : i < blockCount s.din.length) (hD : i ∉ D) {fb : Bytes}
    (hfb : fb = feedbackAt p op m e s.din i) :
    ∃ t, blockStepOf p op m { u with idx := i, fb := fb } = .ok t ∧ t.idx = i ∧
      t.fb = feedbackAt p op m e s.din (i + 1) ∧ BlocksDone p op m e s (i :: D) t := by
  obtain ⟨t, ht, hstep, htag⟩ :=
    blockStepOf_stepAt (u := { u with idx := i, fb := fb }) hop hkey hiv h.frame hi hfb
  obtain ⟨hframe, hidx, htfb, hyb, hobuf⟩ := hstep
  simp only at hidx htfb hyb hobuf htag
  have hlen := outBlocks_length_le hiv hi hyb
  refine ⟨t, ht, hidx, htfb, hframe, ?_, fun a => ?_, ?_⟩
  · rw [hobuf]; exact Memory.wf_writeBytes _ _ _ h.obufWf
  · rw [hobuf, read_writeBytes_block hlen, h.obuf]
    by_cases ha : a / 16 = i
    · have hget : (outBlocks p op m e s.din).getD i [] = t.yb := by rw [List.getD_eq_getElem?_getD, hyb]; rfl
      simp only [ha, hD, hget, List.mem_cons, true_or, true_and, if_true, if_false]
      split
      · rfl
      · next hlt => exact (List.getElem?_eq_none (Nat.le_of_not_lt hlt)).symm
    · simp [ha]
  · rw [htag, h.utag]
    by_cases hlast : i + 1 = blockCount s.din.length
    · have : blockCount s.din.length - 1 = i := by omega
      simp [hlast, this, hD]
    · have : blockCount s.din.length - 1 ≠ i := by omega
      simp [hlast, this]

/-- In ECB the engine a BLOCK phase runs with gives what the engine of the context gives. -/
theorem BlocksDone.of_loadedEngine (h : BlocksDone p op m (s.loadedEngine m) s D u) :
    BlocksDone p op m (s.engine m) s D u := by
  by_cases hm : m = .ecb
  · subst hm
    have htag : lastTag p op .ecb (s.loadedEngine .ecb) s.din = lastTag p op .ecb (s.engine .ecb) s.din := by
      cases op <;> rfl
    exact ⟨h.frame, h.obufWf, by rw [← State.outBlocks_loadedEngine]; exact h.obuf, by rw [← htag]; exact h.utag⟩
  · rwa [State.loadedEngine_eq hm] at h

/-- Two states with the same blocks done leave the same whole state behind, whatever the order of the blocks was: the
block registers are free values then (log 7). -/
theorem BlocksDone.final_eq {u' : State} (h : BlocksDone p op m e s D u) (h' : BlocksDone p op m e s D u') :
    (u.succeed u.obuf.length).dropMessage.dropBlocks = (u'.succeed u'.obuf.length).dropMessage.dropBlocks := by
  have hobuf : u.obuf = u'.obuf := Memory.ext_read _ _ h.obufWf h'.obufWf fun a => by rw [h.obuf, h'.obuf]
  have hutag : u.utag = u'.utag := by rw [h.utag, h'.utag]
  have hframe : u.frame = u'.frame := by rw [h.frame, h'.frame]
  have hfinal : ∀ x : State, (x.succeed x.obuf.length).dropMessage.dropBlocks =
      (({ x.frame with obuf := x.obuf, utag := x.utag } : State).succeed x.obuf.length).dropMessage.dropBlocks :=
    fun _ => rfl
  rw [hfinal u, hfinal u', hobuf, hutag, hframe]

/-- An `ENC` or `DEC` whose checks pass ends with all its blocks done (R28). -/
theorem execWith_blocksDone (hop : op ≠ .new) (hv : (s.context m).valid = true)
    (hc : messageCheck op m s.din.length = none) :
    ∃ u, BlocksDone p op m (s.engine m) s (List.range (blockCount s.din.length)) u ∧
      execWith p (Instr.of op m) s = .next (u.succeed u.obuf.length).dropMessage.dropBlocks := by
  obtain ⟨u, hu, hloop, hexec, -⟩ := execWith_completed (p := p) hop hv hc
  have hlen : u.obuf.length = (outBlocks p op m (s.engine m) s.din).flatten.length := by
    rw [hloop.obuf, Memory.holding_length, List.take_of_length_le (by rw [outBlocks_length])]
  refine ⟨u, ?_, by rw [hlen, hexec]⟩
  obtain ⟨u', hu', hdone, -, -⟩ := blockLoop_rule
    (fun i v => BlocksDone p op m (s.loadedEngine m) s (List.range i) v ∧ v.idx = i ∧
      v.fb = feedbackAt p op m (s.loadedEngine m) s.din i)
    (blockCount s.din.length)
    (fun i v hi ⟨hv, hidx, hfb⟩ => by
      obtain ⟨t, ht, htidx, htfb, hdone⟩ := hv.step hop rfl
        (fun h => State.loadedEngine_iv_length (by simp [h])) hi (by simp) hfb
      subst hidx
      have hdone' := hdone.congr (D' := List.range (v.idx + 1)) fun j => by simp; omega
      exact ⟨t, ht, ⟨hdone'.frame, hdone'.obufWf, hdone'.obuf, hdone'.utag⟩, by simp [htidx], htfb⟩)
    (s.loaded m) ⟨blocksDone_nil, rfl, (feedbackAt_zero (e := s.loadedEngine m)).symm⟩
  rw [hu, Except.ok.injEq] at hu'
  exact hu' ▸ hdone.of_loadedEngine

end Sys2Proof.Machine

/-! A BLOCK phase with requests in flight (70_reset_and_hazards.md R315, R316): how many requests are outstanding, what
every order leaves, and that an order exists. LanesChangeNoResult. -/

namespace Sys2Proof.Machine

variable {p : Primitive} {op : Op} {m : Mode} {s : State} {f g : Flight} {lanes i j k : Nat}

/-! ### The feedback of a request, by what it is made of (R23) -/

theorem Flight.feedback_ctr : f.feedback op .ctr i = some (counterBlock (f.core.seed .ctr) i) := rfl

theorem Flight.feedback_zero (h : m ≠ .ctr) : f.feedback op m 0 = some (f.core.seed m) := by
  simp [Flight.feedback, h]

theorem Flight.feedback_ecb : f.feedback op .ecb i = some (f.core.seed .ecb) := by
  cases i <;> rfl

theorem chained_ne (h : chained op m = true) : m ≠ .ctr ∧ m ≠ .ecb := by
  cases m with
  | ecb | ctr => cases op <;> cases h
  | cbc | cfb | ofb => exact ⟨by decide, by decide⟩

theorem Flight.feedback_chained (h : chained op m = true) : f.feedback op m (j + 1) = f.fed.lookup j := by
  obtain ⟨hctr, hecb⟩ := chained_ne h
  simp [Flight.feedback, hctr, hecb, h]

theorem Flight.feedback_unchained (hctr : m ≠ .ctr) (hecb : m ≠ .ecb) (h : chained op m = false) :
    f.feedback op m (j + 1) = (f.core.memRead (blockOffset j) 16).toOption := by
  simp [Flight.feedback, hctr, hecb, h]

/-- An answer looked up is one that arrived. -/
theorem mem_of_lookup {l : List (Nat × Bytes)} {v : Bytes} (h : l.lookup j = some v) : (j, v) ∈ l := by
  obtain ⟨l₁, l₂, rfl, -⟩ := List.lookup_eq_some_iff.1 h
  simp

/-- The feedback of a block of the message is there: in a chained command once the block before it is answered, in any
other command from the start (R253, R315). -/
theorem Flight.feedback_available (hframe : f.core.frame = (s.loaded m).frame) (hi : i < blockCount s.din.length)
    (h : chained op m = true → ∀ j < i, j ∈ f.fed.map Prod.fst) : ∃ fb, f.feedback op m i = some fb := by
  by_cases hctr : m = .ctr
  · subst hctr; exact ⟨_, Flight.feedback_ctr⟩
  by_cases hecb : m = .ecb
  · subst hecb; exact ⟨_, Flight.feedback_ecb⟩
  cases i with
  | zero => exact ⟨_, Flight.feedback_zero hctr⟩
  | succ j =>
    cases hc : chained op m with
    | true =>
      obtain ⟨q, hq, hqj⟩ := List.mem_map.1 (h hc j (by omega))
      rw [Flight.feedback_chained hc]
      exact Option.isSome_iff_exists.1 (List.lookup_isSome_iff.2 ⟨q, hq, by simp [hqj]⟩)
    | false =>
      rw [Flight.feedback_unchained hctr hecb hc, memRead_block_before hframe hi]
      exact ⟨_, rfl⟩

/-! ### How many requests are outstanding -/

/-- At most `LANES` (R7). -/
theorem Flight.run_sent_le {order : List LaneEvent} (h : Flight.run p lanes op m order (Flight.start s) = some f) :
    f.sent.length ≤ lanes := by
  refine Flight.run_rule (fun f => f.sent.length ≤ lanes) ?_ ?_ (Nat.zero_le _) h
  · intro f g i _ hg
    obtain ⟨hfree, -, -, fb, -, rfl⟩ := Flight.issue_eq_some.1 hg
    simpa using hfree
  · intro f g i hf hg
    obtain ⟨r, -, -, t, -, rfl⟩ := Flight.answer_eq_some hg
    exact (List.length_filter_le _ _).trans hf

/-- A chained BLOCK phase goes block by block: the blocks below some `k` are answered, and block `k` at most is
outstanding. -/
def Flight.InSequence (f : Flight) : Prop :=
  ∃ k, (∀ i, i ∈ f.fed.map Prod.fst ↔ i < k) ∧ (f.sent = [] ∨ ∃ fb, f.sent = [⟨k, fb⟩])

theorem Flight.InSequence.issue (h : f.InSequence) (hc : chained op m = true) (hg : f.issue lanes op m i = some g) :
    g.InSequence := by
  obtain ⟨k, hfed, hsent⟩ := h
  obtain ⟨-, -, hnew, fb, hfb, rfl⟩ := Flight.issue_eq_some.1 hg
  have hle : i ≤ k := by
    cases i with
    | zero => exact Nat.zero_le k
    | succ j =>
      rw [Flight.feedback_chained hc] at hfb
      exact (hfed j).1 (List.mem_map_of_mem (mem_of_lookup hfb))
  have hge : k ≤ i := Nat.le_of_not_lt fun hlt =>
    hnew (List.mem_append_right _ ((hfed i).2 hlt))
  obtain rfl : i = k := Nat.le_antisymm hle hge
  rcases hsent with hsent | ⟨fb', hsent⟩
  · exact ⟨i, hfed, .inr ⟨fb, by simp [hsent]⟩⟩
  · exact absurd (show i ∈ f.issued by simp [Flight.issued, hsent]) hnew

theorem Flight.InSequence.answer (h : f.InSequence) (hg : f.answer p op m i = some g) : g.InSequence := by
  obtain ⟨k, hfed, hsent⟩ := h
  obtain ⟨r, hr, hri, t, -, rfl⟩ := Flight.answer_eq_some hg
  rcases hsent with hsent | ⟨fb, hsent⟩
  · simp [hsent] at hr
  · have hik : k = i := by
      rw [hsent, List.mem_singleton] at hr
      rw [← hri, hr]
    subst hik
    refine ⟨k + 1, fun j => ?_, .inl (by simp [hsent])⟩
    rw [List.map_cons, List.mem_cons, hfed]
    omega

/-- In a chained command at most one (R193, R213, R233). -/
theorem Flight.run_sent_le_one {order : List LaneEvent} (hc : chained op m = true)
    (h : Flight.run p lanes op m order (Flight.start s) = some f) : f.sent.length ≤ 1 := by
  have hseq : f.InSequence := Flight.run_rule Flight.InSequence (fun _ _ _ hf hg => hf.issue hc hg)
    (fun _ _ _ hf hg => hf.answer hg) ⟨0, by simp, .inl rfl⟩ h
  obtain ⟨k, -, hsent | ⟨fb, hsent⟩⟩ := hseq <;> simp [hsent]

/-- In any other command the first `k` requests can be outstanding together, as far as lanes and blocks go (R253). -/
theorem Flight.run_issues (hc : chained op m = false) (hk : k ≤ min lanes (blockCount s.din.length)) :
    ∃ f, Flight.run p lanes op m ((List.range k).map .issue) (Flight.start (s.loaded m)) = some f ∧
      f.core = s.loaded m ∧ f.fed = [] ∧ f.sent.map LaneRequest.idx = List.range k := by
  induction k with
  | zero => exact ⟨_, rfl, rfl, rfl, rfl⟩
  | succ k ih =>
    obtain ⟨f, hrun, hcore, hfed, hsent⟩ := ih (by omega)
    have hlen : f.sent.length = k := by simpa using congrArg List.length hsent
    obtain ⟨fb, hfb⟩ := Flight.feedback_available (f := f) (i := k) (s := s) (m := m) (op := op) (by rw [hcore])
      (by omega) (by simp [hc])
    have hissue : f.issue lanes op m k = some { f with sent := f.sent ++ [⟨k, fb⟩] } :=
      Flight.issue_eq_some.2 ⟨by omega, by rw [hcore, State.loaded_nblk]; omega,
        by simp [Flight.issued, hsent, hfed], fb, hfb, rfl⟩
    refine ⟨{ f with sent := f.sent ++ [⟨k, fb⟩] }, ?_, hcore, hfed, by simp [hsent, List.range_succ]⟩
    rw [List.range_succ, List.map_append, Flight.run_append, hrun]
    simp only [Option.bind_some, List.map_cons, List.map_nil, Flight.run, Flight.event, hissue]

/-! ### What every order leaves -/

/-- A BLOCK phase of an `ENC` or `DEC` under way, in whatever order: no block is issued twice, every request was formed
with the feedback of its block, every answer hands on that of the block after it, and the answered blocks are done. -/
structure FlightAt (p : Primitive) (op : Op) (m : Mode) (s : State) (f : Flight) : Prop where
  nodup : f.issued.Nodup
  inMessage : ∀ i ∈ f.issued, i < blockCount s.din.length
  sent : ∀ r ∈ f.sent, r.fb = feedbackAt p op m (s.engine m) s.din r.idx
  fed : ∀ q ∈ f.fed, q.2 = feedbackAt p op m (s.engine m) s.din (q.1 + 1)
  done : BlocksDone p op m (s.engine m) s (f.fed.map Prod.fst) f.core

theorem flightAt_start : FlightAt p op m s (Flight.start (s.loaded m)) where
  nodup := List.nodup_nil
  inMessage := by simp
  sent := by simp
  fed := by simp
  done := blocksDone_nil

theorem State.seed_eq_engine_iv (s : State) (m : Mode) : s.seed m = (s.engine m).iv := by
  cases m <;> rfl

/-- The engine's IV is what the first block reads (R22, R23). -/
theorem FlightAt.seed (h : FlightAt p op m s f) : f.core.seed m = (s.engine m).iv := by
  rw [State.seed_eq_engine_iv, State.engine, State.engine, State.frame_iv h.done.frame, State.loaded_iv]

theorem feedbackAt_ctr (hi : i < blockCount s.din.length) :
    feedbackAt p op .ctr (s.engine .ctr) s.din i = counterBlock (s.engine .ctr).iv i := by
  rw [feedbackAt, chainFb_iterate (g := inc128) (by cases op <;> exact fun _ _ => rfl) _ _
    (by rw [inputBlocks_length]; omega), inc128_iterate (State.engine_iv_length (by decide))]

theorem feedbackAt_ecb (hi : i < blockCount s.din.length) :
    feedbackAt p op .ecb (s.engine .ecb) s.din i = (s.engine .ecb).iv := by
  rw [feedbackAt, chainFb_iterate (g := id) (by cases op <;> exact fun _ _ => rfl) _ _
    (by rw [inputBlocks_length]; omega), Function.iterate_id, id]

/-- In `DEC.CBC` and `DEC.CFB` a block's feedback is the input block before it (R193, R213). -/
theorem feedbackAt_unchained (hop : op ≠ .new) (hctr : m ≠ .ctr) (hecb : m ≠ .ecb) (hc : chained op m = false)
    (hj : j < blockCount s.din.length) :
    feedbackAt p op m (s.engine m) s.din (j + 1) = messageBlock s.din j := by
  rw [feedbackAt_succ hj]
  cases op with
  | new => exact absurd rfl hop
  | enc =>
    cases m with
    | ecb => exact absurd rfl hecb
    | ctr => exact absurd rfl hctr
    | cbc | cfb | ofb => cases hc
  | dec =>
    cases m with
    | ecb => exact absurd rfl hecb
    | ctr => exact absurd rfl hctr
    | ofb => cases hc
    | cbc | cfb => rfl

/-- Whatever a request is formed with is the feedback of its block in the ascending order (R23, R315). -/
theorem FlightAt.feedback_eq (h : FlightAt p op m s f) (hop : op ≠ .new) (hi : i < blockCount s.din.length)
    {fb : Bytes} (hfb : f.feedback op m i = some fb) : fb = feedbackAt p op m (s.engine m) s.din i := by
  by_cases hctr : m = .ctr
  · subst hctr
    rw [Flight.feedback_ctr, h.seed, Option.some.injEq] at hfb
    rw [← hfb, feedbackAt_ctr hi]
  by_cases hecb : m = .ecb
  · subst hecb
    rw [Flight.feedback_ecb, h.seed, Option.some.injEq] at hfb
    rw [← hfb, feedbackAt_ecb hi]
  cases i with
  | zero =>
    rw [Flight.feedback_zero hctr, h.seed, Option.some.injEq] at hfb
    rw [← hfb, feedbackAt_zero]
  | succ j =>
    cases hc : chained op m with
    | true =>
      rw [Flight.feedback_chained hc] at hfb
      exact h.fed _ (mem_of_lookup hfb)
    | false =>
      rw [Flight.feedback_unchained hctr hecb hc, memRead_block_before h.done.frame hi] at hfb
      rw [feedbackAt_unchained hop hctr hecb hc (by omega)]
      exact (Option.some.inj hfb).symm

theorem FlightAt.issue (h : FlightAt p op m s f) (hop : op ≠ .new) (hg : f.issue lanes op m i = some g) :
    FlightAt p op m s g := by
  obtain ⟨-, hnblk, hnew, fb, hfb, rfl⟩ := Flight.issue_eq_some.1 hg
  have hi : i < blockCount s.din.length := by
    rw [State.frame_nblk h.done.frame] at hnblk
    exact hnblk
  have hissued : ({ f with sent := f.sent ++ [⟨i, fb⟩] } : Flight).issued.Perm (i :: f.issued) := by
    simp [Flight.issued]
  exact {
    nodup := hissued.nodup_iff.2 (List.nodup_cons.2 ⟨hnew, h.nodup⟩)
    inMessage := fun j hj => by
      rcases List.mem_cons.1 (hissued.mem_iff.1 hj) with rfl | hj
      · exact hi
      · exact h.inMessage j hj
    sent := fun r hr => by
      rcases List.mem_append.1 hr with hr | hr
      · exact h.sent r hr
      · rw [List.mem_singleton.1 hr]
        exact h.feedback_eq hop hi hfb
    fed := h.fed
    done := h.done }

/-- Taking an answered request off and adding its answer leaves the blocks issued as they were. -/
theorem Flight.issued_perm_of_answer {r : LaneRequest} {t : State} {v : Bytes} (hnodup : f.issued.Nodup)
    (hr : r ∈ f.sent) :
    f.issued.Perm
      ({ core := t, sent := f.sent.filter (·.idx != r.idx), fed := (r.idx, v) :: f.fed } : Flight).issued := by
  have hmem : r.idx ∈ f.sent.map LaneRequest.idx := List.mem_map_of_mem hr
  have hsent : (f.sent.map LaneRequest.idx).Perm
      (r.idx :: (f.sent.filter (·.idx != r.idx)).map LaneRequest.idx) := by
    have h := List.perm_cons_erase hmem
    rwa [hnodup.of_append_left.erase_eq_filter, List.filter_map] at h
  exact (hsent.append_right _).trans List.perm_middle.symm

theorem FlightAt.answer (h : FlightAt p op m s f) (hop : op ≠ .new) (hg : f.answer p op m i = some g) :
    FlightAt p op m s g := by
  obtain ⟨r, hr, rfl, t, ht, rfl⟩ := Flight.answer_eq_some hg
  have hissued := Flight.issued_perm_of_answer (t := t) (v := t.fb) h.nodup hr
  have hmem : r.idx ∈ f.sent.map LaneRequest.idx := List.mem_map_of_mem hr
  obtain ⟨t', ht', -, hfb, hdone⟩ := h.done.step hop rfl (fun hm => State.engine_iv_length (by simp [hm]))
    (h.inMessage _ (List.mem_append_left _ hmem)) (List.disjoint_of_nodup_append h.nodup hmem) (h.sent r hr)
  obtain rfl : t = t' := Except.ok.inj (ht.symm.trans ht')
  exact {
    nodup := hissued.nodup_iff.1 h.nodup
    inMessage := fun j hj => h.inMessage j (hissued.mem_iff.2 hj)
    sent := fun r hr => h.sent r (List.mem_of_mem_filter hr)
    fed := fun q hq => by
      rcases List.mem_cons.1 hq with rfl | hq
      · exact hfb
      · exact h.fed q hq
    done := hdone }

theorem flightAt_of_run {order : List LaneEvent} (hop : op ≠ .new)
    (h : Flight.run p lanes op m order (Flight.start (s.loaded m)) = some f) : FlightAt p op m s f :=
  Flight.run_rule (FlightAt p op m s) (fun _ _ _ hf hg => hf.issue hop hg) (fun _ _ _ hf hg => hf.answer hop hg)
    flightAt_start h

/-- Where as many blocks are answered as there are, every block is done. -/
theorem FlightAt.allDone (h : FlightAt p op m s f) (hall : f.fed.length = f.core.nblk) :
    BlocksDone p op m (s.engine m) s (List.range (blockCount s.din.length)) f.core := by
  have hn : f.core.nblk = blockCount s.din.length := State.frame_nblk h.done.frame
  have hsub : f.fed.map Prod.fst ⊆ List.range (blockCount s.din.length) := fun j hj =>
    List.mem_range.2 (h.inMessage j (List.mem_append_right _ hj))
  have hperm := (h.nodup.of_append_right.subperm hsub).perm_of_length_le (by simp [hall, hn])
  exact h.done.congr fun _ => hperm.mem_iff

/-! ### An order exists -/

/-- R28's ascending order, each request answered before the next is issued. -/
def ascendingOrder (k : Nat) : List LaneEvent := (List.range k).flatMap fun i => [.issue i, .answer i]

theorem ascendingOrder_succ (k : Nat) : ascendingOrder (k + 1) = ascendingOrder k ++ [.issue k, .answer k] := by
  simp [ascendingOrder, List.range_succ]

theorem Flight.answer_only {fb : Bytes} {t : State} (hsent : f.sent = [⟨i, fb⟩])
    (ht : blockStepOf p op m { f.core with idx := i, fb := fb } = .ok t) :
    f.answer p op m i = some { core := t, sent := [], fed := (i, t.fb) :: f.fed } := by
  simp [Flight.answer, hsent, ht]

/-- With a lane at all, the ascending order can be taken through every block. -/
theorem run_ascendingOrder (hop : op ≠ .new) (hl : 1 ≤ lanes) (hk : k ≤ blockCount s.din.length) :
    ∃ f, Flight.run p lanes op m (ascendingOrder k) (Flight.start (s.loaded m)) = some f ∧ f.sent = [] ∧
      f.fed.map Prod.fst = (List.range k).reverse := by
  induction k with
  | zero => exact ⟨_, rfl, rfl, rfl⟩
  | succ k ih =>
    obtain ⟨f, hrun, hsent, hfed⟩ := ih (by omega)
    have hf := flightAt_of_run hop hrun
    obtain ⟨fb, hfb⟩ := Flight.feedback_available (op := op) (i := k) hf.done.frame (by omega)
      (fun _ j hj => by simpa [hfed] using hj)
    have hissue : f.issue lanes op m k = some { f with sent := [⟨k, fb⟩] } := by
      refine Flight.issue_eq_some.2 ⟨by simp [hsent]; omega, ?_, by simp [Flight.issued, hsent, hfed], fb, hfb,
        by simp [hsent]⟩
      rw [State.frame_nblk hf.done.frame, State.loaded_nblk]
      omega
    obtain ⟨t, ht, -⟩ := hf.done.step (i := k) hop rfl (fun hm => State.engine_iv_length (by simp [hm])) (by omega)
      (by simp [hfed]) (hf.feedback_eq hop (by omega) hfb)
    have hanswer := Flight.answer_only (f := { f with sent := [⟨k, fb⟩] }) rfl ht
    refine ⟨{ core := t, sent := [], fed := (k, t.fb) :: f.fed }, ?_, rfl, by simp [hfed, List.range_succ]⟩
    rw [ascendingOrder_succ, Flight.run_append, hrun]
    simp only [Option.bind_some, Flight.run, Flight.event, hissue, hanswer]

/-! ### Whole commands -/

theorem runMessageLanes_noEngine {check : Nat → Option ErrName} {order : List LaneEvent}
    (h : (s.context m).valid = false) :
    runMessageLanes p lanes op m check order s = some (.next (s.start.acceptMessage.raise .noEngine).dropMessage) := by
  simp [runMessageLanes, h]

theorem runMessageLanes_checked {check : Nat → Option ErrName} {order : List LaneEvent} {x : ErrName}
    (h : (s.context m).valid = true) (hc : check s.din.length = some x) :
    runMessageLanes p lanes op m check order s = some (.next (s.start.acceptMessage.raise x).dropMessage) := by
  simp [runMessageLanes, h, hc]

/-- Where the checks pass, a command answers what an order that leaves no block out leaves. -/
theorem runMessageLanes_eq_some {check : Nat → Option ErrName} {order : List LaneEvent}
    {o : Host.Outcome State Fault Refusal} (h : (s.context m).valid = true) (hc : check s.din.length = none) :
    runMessageLanes p lanes op m check order s = some o ↔
      ∃ f, Flight.run p lanes op m order (Flight.start (s.loaded m)) = some f ∧ f.fed.length = f.core.nblk ∧
        .next (f.core.succeed f.core.obuf.length).dropMessage.dropBlocks = o := by
  simp only [runMessageLanes, State.acceptMessage_context, State.start_context, h, if_true,
    State.acceptMessage_ilen, State.start_din, hc]
  rw [show s.start.acceptMessage.load m = s.loaded m from rfl]
  cases Flight.run p lanes op m order (Flight.start (s.loaded m)) with
  | none => simp
  | some f => simp

theorem execLanes_message (hop : op ≠ .new) (order : List LaneEvent) :
    execLanes p lanes order (Instr.of op m) s = runMessageLanes p lanes op m (messageCheck op m) order s := by
  cases op with
  | new => exact absurd rfl hop
  | enc | dec => simp only [execLanes, Instr.of_op, Instr.of_mode, messageCheck_enc, messageCheck_dec]

/-- The commands of the machine with lanes: some order answers `o` exactly when `o` is what R28's order answers. -/
def LanesAgree (p : Primitive) (lanes : Nat) (i : Instr) (s : State) : Prop :=
  ∀ o, (∃ order, execLanes p lanes order i s = some o) ↔ o = execWith p i s

/-- Where the order is not looked at, the machines agree as soon as they answer alike. -/
theorem lanesAgree_of_const {i : Instr} (h : ∀ order, execLanes p lanes order i s = some (execWith p i s)) :
    LanesAgree p lanes i s := by
  intro o
  simp only [h, Option.some.injEq, exists_const]
  exact eq_comm

theorem lanesAgree_new : LanesAgree p lanes (Instr.of .new m) s := by
  refine lanesAgree_of_const fun order => ?_
  rw [execWith_new]
  simp only [execLanes, Instr.of_op, Instr.of_mode]

theorem lanesAgree_message (hop : op ≠ .new) (hl : 1 ≤ lanes) : LanesAgree p lanes (Instr.of op m) s := by
  cases hv : (s.context m).valid with
  | false =>
    exact lanesAgree_of_const fun order => by
      rw [execLanes_message hop, runMessageLanes_noEngine hv, execWith_noEngine hop hv]
  | true =>
    cases hc : messageCheck op m s.din.length with
    | some x =>
      exact lanesAgree_of_const fun order => by
        rw [execLanes_message hop, runMessageLanes_checked hv hc, execWith_checked hop hv hc]
    | none =>
      intro o
      obtain ⟨u, hu, hexec⟩ := execWith_blocksDone (p := p) hop hv hc
      simp only [execLanes_message hop, runMessageLanes_eq_some hv hc, hexec]
      constructor
      · rintro ⟨order, f, hrun, hall, rfl⟩
        rw [((flightAt_of_run hop hrun).allDone hall).final_eq hu]
      · rintro rfl
        obtain ⟨f, hrun, -, hfed⟩ := run_ascendingOrder (p := p) (m := m) (s := s) hop hl (Nat.le_refl _)
        have hf := flightAt_of_run hop hrun
        have hall : f.fed.length = f.core.nblk := by
          rw [State.frame_nblk hf.done.frame, State.loaded_nblk]
          simpa using congrArg List.length hfed
        exact ⟨_, f, hrun, hall, by rw [(hf.allDone hall).final_eq hu]⟩

theorem lanesAgree (hl : 1 ≤ lanes) (i : Instr) : LanesAgree p lanes i s := by
  rw [← Instr.of_op_mode i]
  by_cases hop : i.op = .new
  · rw [hop]; exact lanesAgree_new
  · exact lanesAgree_message hop hl

/-! ### The step -/

/-- The step of the machine with lanes, under every order together, is the step of R28's order. -/
theorem mayStep_iff {bound : Option Nat} (hl : 1 ≤ lanes) (o : Host.Outcome State Fault Refusal) :
    MayStep p bound lanes s o ↔ o = stepWith bound (execWith p) s := by
  unfold MayStep
  cases hstream : s.stream with
  | nil => simp only [stepLanes, stepWith, hstream, Option.some.injEq, exists_const]; exact eq_comm
  | cons r rest =>
    cases hfits : r.presentable bound with
    | false =>
      simp only [stepLanes, stepWith, hstream, hfits, Bool.false_eq_true, if_false, Option.some.injEq, exists_const]
      exact eq_comm
    | true =>
      have hword : (s.accept r rest).cmdr = r.word := rfl
      cases hd : decode r.word with
      | error x =>
        simp only [stepLanes, stepWith, runLatched, hstream, hfits, if_true, hword, hd, Option.some.injEq,
          exists_const]
        exact eq_comm
      | ok i =>
        simp only [stepLanes, stepWith, runLatched, hstream, hfits, if_true, hword, hd, Option.map_eq_some_iff]
        rw [exists_comm]
        simp only [exists_and_right, lanesAgree hl i _, exists_eq_left]
        exact eq_comm

/-- Settles O60: the invariant `FlightAt` over any order gives one final state, the ascending order exists, and the requests
outstanding are bounded by `issue`, one at a time where the command is chained, and all lanes where it is not. -/
theorem lanesChangeNoResult : Obligations.LanesChangeNoResult := by
  refine ⟨fun p bound lanes s o hl => mayStep_iff hl o, fun s o => ?_, fun p lanes op m order s f h =>
    ⟨Flight.run_sent_le h, fun hc => Flight.run_sent_le_one hc h⟩, fun p lanes op m s hc => ?_⟩
  · rw [step_eq_stepWith]
    exact mayStep_iff (Nat.le_refl 1) o
  · obtain ⟨f, hrun, -, -, hsent⟩ := Flight.run_issues (p := p) (s := s) (m := m) hc (Nat.le_refl _)
    exact ⟨_, f, hrun, by simpa using congrArg List.length hsent⟩

end Sys2Proof.Machine

/-! SUPPORT. All that one command and one step can do, case by case: what the claims about every step and every run cite
instead of unfolding `stepWith`, `runLatched` and `execWith` (10_state.md R28, R31, R38). -/

namespace Sys2Proof.Machine

variable {p : Primitive} {op : Op} {m k : Mode} {i : Instr} {bound : Option Nat} {s t : State}

/-! ### Contexts -/

theorem SameContexts.context (h : SameContexts s t) (k : Mode) : t.context k = s.context k := by
  obtain ⟨hecb, hcbc, hcfb, hofb, hctr⟩ := h
  cases k <;> simp only [State.context, hecb, hcbc, hcfb, hofb, hctr]

theorem SameContexts.iv (h : SameContexts s t) (k : Mode) : t.iv k = s.iv k := by
  obtain ⟨-, hcbc, hcfb, hofb, hctr⟩ := h
  cases k <;> simp only [State.iv, hcbc, hcfb, hofb, hctr]

/-! ### Construction -/

/-- What each way `NEW.<m>` can end has (R150), `NEW.<m>` has. -/
theorem State.construct_rule (P : State → Prop)
    (hfail : ∀ x : ErrName, x.reportable = true → P ((s.start.invalidate m).raise x))
    (hkey : ∀ kl : KeyLen, s.keyIn.length = kl.bytes → P ((s.start.install m kl).succeed 0))
    (hiv : ∀ (kl : KeyLen) (iv : Block), s.keyIn.length = kl.bytes → P (((s.start.install m kl).withIv m iv).succeed 0)) :
    P (s.construct m) := by
  rcases State.construct_cases m s with ⟨h, -⟩ | ⟨kl, hlen, ⟨-, h⟩ | ⟨-, iv, -, h⟩ | ⟨-, -, h⟩⟩ <;> rw [h]
  · exact hfail _ rfl
  · exact hkey kl hlen
  · exact hiv kl iv hlen
  · exact hfail _ rfl

@[simp] theorem State.construct_olen : (s.construct m).olen = 0 :=
  State.construct_rule (·.olen = 0) (fun _ _ => rfl) (fun _ _ => rfl) fun _ _ _ => rfl

@[simp] theorem State.construct_stream : (s.construct m).stream = s.stream :=
  State.construct_rule (·.stream = s.stream) (by simp [State.invalidate]) (by simp [State.install])
    (by simp [State.install])

/-- `NEW.<m>` changes no key and no validity of another mode's context (R159). -/
theorem State.construct_context_of_ne (h : k ≠ m) : (s.construct m).context k = s.context k :=
  State.construct_rule (·.context k = s.context k)
    (by simp [State.invalidate, State.withContext_context, h]) (by simp [State.install, State.withContext_context, h])
    (by simp [State.install, State.withContext_context, h])

/-- `NEW.<m>` changes no IV of another mode's context (R159). -/
theorem State.construct_iv_of_ne (h : k ≠ m) : (s.construct m).iv k = s.iv k :=
  State.construct_rule (·.iv k = s.iv k) (by simp [State.invalidate]) (by simp [State.install])
    (by simp [State.install, State.withIv_iv, h])

/-! ### Encryption and decryption -/

/-- The error an `ENC` or `DEC` raises, by its context and the length of its message (R283). -/
def messageError (op : Op) (m : Mode) (c : KeyContext) (len : Nat) : Option ErrName :=
  if c.valid then messageCheck op m len else some .noEngine

theorem nonEmptyCheck_reportable {len : Nat} {x : ErrName} (h : nonEmptyCheck len = some x) :
    x.reportable = true := by
  unfold nonEmptyCheck at h
  split at h <;> cases h
  rfl

theorem ctCheck_reportable {len : Nat} {x : ErrName} (h : ctCheck len = some x) : x.reportable = true := by
  unfold ctCheck at h
  split at h
  · cases h; rfl
  split at h <;> cases h
  rfl

/-- `ENC` and `DEC` raise only errors that can reach `ERR` (R271). -/
theorem messageError_reportable {c : KeyContext} {len : Nat} {x : ErrName} (h : messageError op m c len = some x) :
    x.reportable = true := by
  unfold messageError at h
  split at h
  · cases op
    case dec =>
      rw [messageCheck_dec, decCheck] at h
      split at h
      · exact ctCheck_reportable h
      · exact nonEmptyCheck_reportable h
    all_goals exact nonEmptyCheck_reportable h
  · cases h; rfl

theorem execWith_failed {x : ErrName} (hop : op ≠ .new) (h : messageError op m (s.context m) s.din.length = some x) :
    ∃ t, execWith p (Instr.of op m) s = .next t ∧ MessageFailed s t x := by
  refine ⟨_, ?_, messageFailed_of_raise s x⟩
  unfold messageError at h
  cases hv : (s.context m).valid with
  | true =>
    rw [hv, if_pos rfl] at h
    exact execWith_checked hop hv h
  | false =>
    rw [hv, if_neg Bool.false_ne_true] at h
    cases h
    exact execWith_noEngine hop hv

theorem execWith_succeeded (hop : op ≠ .new) (h : messageError op m (s.context m) s.din.length = none) :
    ∃ t, execWith p (Instr.of op m) s = .next t ∧
      Completed s t (outBlocks p op m (s.engine m) s.din).flatten := by
  unfold messageError at h
  split at h
  · next hv =>
    obtain ⟨_, -, -, hexec, hcompleted⟩ := execWith_completed (p := p) hop hv h
    exact ⟨_, hexec, hcompleted⟩
  · cases h

/-! ### A command, a latched word, a step -/

/-- All a command can do: construct, raise an error, or complete with its output blocks (R285, R287). -/
theorem execWith_cases (h : execWith p i s = .next t) :
    (i.op = .new ∧ t = s.construct i.mode) ∨
    (i.op ≠ .new ∧ ∃ x : ErrName, x.reportable = true ∧ MessageFailed s t x) ∨
    (i.op ≠ .new ∧ Completed s t (outBlocks p i.op i.mode (s.engine i.mode) s.din).flatten) := by
  rw [← Instr.of_op_mode i] at h
  by_cases hop : i.op = .new
  · rw [hop, execWith_new] at h
    cases h
    exact .inl ⟨hop, rfl⟩
  · cases hx : messageError i.op i.mode (s.context i.mode) s.din.length with
    | some x =>
      obtain ⟨u, hexec, hfailed⟩ := execWith_failed (p := p) hop hx
      cases h.symm.trans hexec
      exact .inr (.inl ⟨hop, x, messageError_reportable hx, hfailed⟩)
    | none =>
      obtain ⟨u, hexec, hcompleted⟩ := execWith_succeeded (p := p) hop hx
      cases h.symm.trans hexec
      exact .inr (.inr ⟨hop, hcompleted⟩)

/-- All a latched word can do: report `IllegalCommand`, or run the command it decodes to (R99). -/
theorem runLatched_cases {run : Instr → State → Host.Outcome State Fault Refusal} (h : runLatched run s = .next t) :
    (∃ x, decode s.cmdr = .error x ∧ t = s.illegal) ∨ ∃ i, decode s.cmdr = .ok i ∧ run i s = .next t := by
  unfold runLatched at h
  cases hd : decode s.cmdr with
  | error x => rw [hd] at h; cases h; exact .inl ⟨x, rfl, rfl⟩
  | ok i => rw [hd] at h; exact .inr ⟨i, rfl, h⟩

/-- All a step can do that answers a next state: idle, or accept a request, run it and release `CMDR` (R28, R292). -/
theorem stepWith_cases {run : Instr → State → Host.Outcome State Fault Refusal} (h : stepWith bound run s = .next t) :
    (s.stream = [] ∧ t = s) ∨
    ∃ r rest u, s.stream = r :: rest ∧ r.presentable bound = true ∧ runLatched run (s.accept r rest) = .next u ∧
      t = u.releaseWord := by
  unfold stepWith at h
  cases hs : s.stream with
  | nil => rw [hs] at h; cases h; exact .inl ⟨rfl, rfl⟩
  | cons r rest =>
    rw [hs] at h
    cases hfits : r.presentable bound with
    | false => simp only [hfits, Bool.false_eq_true, if_false] at h; cases h
    | true =>
      simp only [hfits, if_true] at h
      cases hrun : runLatched run (s.accept r rest) with
      | next u => rw [hrun] at h; cases h; exact .inr ⟨r, rest, u, rfl, hfits, hrun, rfl⟩
      | fault f => rw [hrun] at h; cases h
      | refused f => rw [hrun] at h; cases h

end Sys2Proof.Machine

/-! The state between two commands (10_state.md R31, R32, R35, R40, R41): the state after reset, the invariant, the step and
the bound on its output. -/

namespace Sys2Proof.Machine

variable {p : Primitive} {op : Op} {m : Mode} {i : Instr} {bound : Option Nat} {e : Engine} {msg : Bytes} {s t : State}

/-! ### The invariant -/

/-- Every context holds exactly `KLEN` key bytes (R40 d). -/
def State.KeysFit (s : State) : Prop := ∀ m, (s.context m).key.length = (s.context m).klen.bytes

theorem SameContexts.keysFit (h : SameContexts s t) (hs : s.KeysFit) : t.KeysFit := fun m => by
  rw [h.context m]; exact hs m

/-- Writing a context keeps the key lengths where what is written fits (R29). -/
theorem State.KeysFit.withContext {c : KeyContext} (hs : s.KeysFit) (hc : c.key.length = c.klen.bytes) :
    (s.withContext m c).KeysFit := fun k => by
  rw [State.withContext_context]
  split
  · exact hc
  · exact hs k

/-- A state that shows an error is between commands (R285). -/
theorem State.inv_of_failed {x : ErrName} (hst : t.st = .error) (herr : t.err = some x) (hx : x.reportable = true)
    (holen : t.olen = 0) (hobuf : t.obuf = []) (hibuf : Memory.wf t.ibuf = true) (hkeys : t.KeysFit) : t.Inv where
  keyLength := hkeys
  notBusy := by simp [hst]
  errWhenError := by simp [hst, herr]
  errReportable := by simpa [herr] using hx
  obufHoldsOlen := ⟨[], by simp [hobuf], by simp [holen]⟩
  noOutput := fun _ => holen
  obufWf := by rw [hobuf]; rfl
  ibufWf := hibuf

/-- A state that shows a result is between commands (R287). -/
theorem State.inv_of_done {out : Bytes} (hst : t.st = .done) (herr : t.err = none) (holen : t.olen = out.length)
    (hobuf : t.obuf = Memory.holding 0 out) (hibuf : Memory.wf t.ibuf = true) (hkeys : t.KeysFit) : t.Inv where
  keyLength := hkeys
  notBusy := by simp [hst]
  errWhenError := by simp [hst, herr]
  errReportable := by simp [herr]
  obufHoldsOlen := ⟨out, hobuf, holen⟩
  noOutput := by simp [hst]
  obufWf := by rw [hobuf]; exact Memory.wf_holding out 0
  ibufWf := hibuf

theorem Completed.inv {out : Bytes} (h : Completed s t out) (hkeys : s.KeysFit) : t.Inv :=
  State.inv_of_done h.st h.err h.olen h.obuf (by rw [h.ibuf]; rfl) (h.contexts.keysFit hkeys)

theorem MessageFailed.inv {x : ErrName} (h : MessageFailed s t x) (hx : x.reportable = true) (hkeys : s.KeysFit) :
    t.Inv :=
  State.inv_of_failed h.st h.err hx h.olen h.obuf (by rw [h.ibuf]; rfl) (h.contexts.keysFit hkeys)

theorem State.illegal_inv (hkeys : s.KeysFit) (hibuf : Memory.wf s.ibuf = true) : s.illegal.Inv :=
  State.inv_of_failed (x := .illegalCommand) rfl rfl rfl rfl rfl hibuf
    (SameContexts.keysFit ⟨rfl, rfl, rfl, rfl, rfl⟩ hkeys)

theorem State.construct_inv (hkeys : s.KeysFit) (hibuf : Memory.wf s.ibuf = true) : (s.construct m).Inv := by
  have hstart : s.start.KeysFit := SameContexts.keysFit ⟨rfl, rfl, rfl, rfl, rfl⟩ hkeys
  refine State.construct_rule State.Inv (fun x hx => ?_) (fun kl hlen => ?_) fun kl iv hlen => ?_
  · have hfit : (s.start.invalidate m).KeysFit := hstart.withContext (hstart m)
    exact State.inv_of_failed rfl rfl hx rfl rfl (by simpa [State.invalidate] using hibuf)
      (SameContexts.keysFit ⟨rfl, rfl, rfl, rfl, rfl⟩ hfit)
  · have hfit : (s.start.install m kl).KeysFit := hstart.withContext hlen
    exact State.inv_of_done (out := []) rfl (by simp [State.install]) rfl (by simp [State.install])
      (by simpa [State.install] using hibuf) (SameContexts.keysFit ⟨rfl, rfl, rfl, rfl, rfl⟩ hfit)
  · have hfit : ((s.start.install m kl).withIv m iv).KeysFit := fun k => by
      rw [State.withIv_context]; exact hstart.withContext hlen k
    exact State.inv_of_done (out := []) rfl (by simp [State.install]) rfl (by simp [State.install])
      (by simpa [State.install] using hibuf) (SameContexts.keysFit ⟨rfl, rfl, rfl, rfl, rfl⟩ hfit)

/-- Whatever word is latched, the state it leaves meets the invariant, if key lengths and `IBUF` did before. -/
theorem runLatched_inv (h : runLatched (execWith p) s = .next t) (hkeys : s.KeysFit) (hibuf : Memory.wf s.ibuf = true) :
    t.Inv := by
  rcases runLatched_cases h with ⟨_, -, rfl⟩ | ⟨i, -, hexec⟩
  · exact State.illegal_inv hkeys hibuf
  rcases execWith_cases hexec with ⟨-, rfl⟩ | ⟨-, x, hx, hfailed⟩ | ⟨-, hcompleted⟩
  · exact State.construct_inv hkeys hibuf
  · exact hfailed.inv hx hkeys
  · exact hcompleted.inv hkeys

/-- The invariant does not speak of `CMDR`, nor of how many free values were drawn. -/
theorem State.Inv.releaseWord (h : s.Inv) : s.releaseWord.Inv where
  keyLength m := by rw [State.releaseWord_context]; exact h.keyLength m
  notBusy := h.notBusy
  errWhenError := h.errWhenError
  errReportable := h.errReportable
  obufHoldsOlen := h.obufHoldsOlen
  noOutput := h.noOutput
  obufWf := h.obufWf
  ibufWf := h.ibufWf

theorem stepWith_inv (h : stepWith bound (execWith p) s = .next t) (hs : s.Inv) : t.Inv := by
  rcases stepWith_cases h with ⟨-, rfl⟩ | ⟨r, rest, u, -, -, hrun, rfl⟩
  · exact hs
  · have hkeys : (s.accept r rest).KeysFit := SameContexts.keysFit ⟨rfl, rfl, rfl, rfl, rfl⟩ hs.keyLength
    exact (runLatched_inv hrun hkeys hs.ibufWf).releaseWord

/-- Settles O52: an idle step keeps the state, and every way a latched word can end leaves a state that meets the
invariant. -/
theorem stepKeepsInvariant : Obligations.StepKeepsInvariant := by
  intro s t hs h
  rw [step_eq_stepWith] at h
  exact stepWith_inv h hs

/-- Settles O51: the reset state has keys of `KLEN` bytes, `ST` idle, `ERR` 0, and both buffers empty. -/
theorem resetMeetsInvariant : Obligations.ResetMeetsInvariant where
  keyLength m := by cases m <;> rfl
  notBusy := by decide
  errWhenError := by decide
  errReportable _ h := nomatch h
  obufHoldsOlen := ⟨[], rfl, rfl⟩
  noOutput _ := rfl
  obufWf := rfl
  ibufWf := rfl

/-- Settles O49: field by field of the reset state; its contexts mode by mode. -/
theorem resetState : Obligations.ResetState :=
  ⟨fun m => by cases m <;> rfl, rfl, rfl, rfl, rfl, rfl⟩

/-! ### The step -/

/-- Settles O5: with no bound on messages every request is accepted, and its latched word is the one decoded. -/
theorem stepRunsDecodedCommand : Obligations.StepRunsDecodedCommand := by
  refine ⟨fun s r rest i hstream hdecode => ?_, fun _ => rfl⟩
  have hfits : r.presentable Config.maxMsgBytes = true := rfl
  simp only [step, stepWith, hstream, hfits, if_true, runLatched, State.accept_cmdr, hdecode]
  rfl

/-! ### The output bound -/

/-- The output of a command is never longer than its blocks (R32). -/
theorem outBlocks_flatten_length_le (hiv : m = .cbc → e.iv.length = 16) :
    (outBlocks p op m e msg).flatten.length ≤ 16 * blockCount msg.length := by
  cases hn : blockCount msg.length with
  | zero =>
    have hnil : outBlocks p op m e msg = [] := List.eq_nil_of_length_eq_zero (by rw [outBlocks_length, hn])
    simp [hnil]
  | succ n =>
    have hlast := outBlocks_get? (p := p) (op := op) (m := m) (e := e) (show n < blockCount msg.length by omega)
    have hle := outBlocks_length_le hiv (by omega) hlast
    rw [outBlocks_flatten_length hiv hn hlast]
    omega

theorem execWith_olen_le (h : execWith p i s = .next t) : t.olen ≤ 16 * blockCount s.din.length := by
  rcases execWith_cases h with ⟨-, rfl⟩ | ⟨-, x, -, hfailed⟩ | ⟨-, hcompleted⟩
  · simp
  · simp [hfailed.olen]
  · rw [hcompleted.olen]
    exact outBlocks_flatten_length_le fun hcbc => State.engine_iv_length (by simp [hcbc])

theorem runLatched_olen_le (h : runLatched (execWith p) s = .next t) : t.olen ≤ 16 * blockCount s.din.length := by
  rcases runLatched_cases h with ⟨_, -, rfl⟩ | ⟨i, -, hexec⟩
  · exact Nat.zero_le _
  · exact execWith_olen_le hexec

theorem blockCount_le_blockCount {a b : Nat} (h : a ≤ b) : blockCount a ≤ blockCount b := by
  unfold blockCount; omega

/-- Settles O53: an output is as long as the blocks of its message at most, and the port carries no longer message. -/
theorem outputCapacity : Obligations.OutputCapacity := by
  intro p n s t hs h
  have hle : t.olen ≤ 16 * ((n + 15) / 16) := by
    rcases stepWith_cases h with ⟨-, rfl⟩ | ⟨r, rest, u, -, hfits, hrun, rfl⟩
    · exact hs
    · have hdin : r.din.length ≤ n := of_decide_eq_true hfits
      calc u.olen ≤ 16 * blockCount r.din.length := runLatched_olen_le hrun
        _ ≤ 16 * blockCount n := Nat.mul_le_mul_left 16 (blockCount_le_blockCount hdin)
  exact ⟨hle, by omega⟩

end Sys2Proof.Machine

/-! The contexts, and what the result of a command depends on (10_state.md R38, R39, 60_exceptions.md R294,
70_reset_and_hazards.md R313). -/

namespace Sys2Proof.Machine

variable {p : Primitive} {m : Mode} {i : Instr} {bound : Option Nat} {r : Request} {s t : State}

/-! ### The contexts -/

theorem execWith_sameContexts (h : execWith p i s = .next t) (hop : i.op ≠ .new) : SameContexts s t := by
  rcases execWith_cases h with ⟨hnew, -⟩ | ⟨-, x, -, hfailed⟩ | ⟨-, hcompleted⟩
  · exact absurd hnew hop
  · exact hfailed.contexts
  · exact hcompleted.contexts

/-- A command changes the context of `NEW.<m>` and no other (R29, R38, R159). -/
theorem execWith_context (h : execWith p i s = .next t) (hm : i.op = .new → m ≠ i.mode) :
    t.context m = s.context m ∧ t.iv m = s.iv m := by
  by_cases hop : i.op = .new
  · rw [← Instr.of_op_mode i, hop, execWith_new] at h
    cases h
    exact ⟨State.construct_context_of_ne (hm hop), State.construct_iv_of_ne (hm hop)⟩
  · have hsame := execWith_sameContexts h hop
    exact ⟨hsame.context m, hsame.iv m⟩

/-- Settles O54: construction writes its own context, and an `ENC` or `DEC` none, whichever way it ends. -/
theorem commandsKeepOtherContexts : Obligations.CommandsKeepOtherContexts := by
  intro i s t h
  rw [exec_eq_execWith] at h
  exact ⟨fun m hm => execWith_context h fun _ => hm, execWith_sameContexts h⟩

/-- No command takes a request off the stream (R294). -/
theorem execWith_stream (h : execWith p i s = .next t) : t.stream = s.stream := by
  rcases execWith_cases h with ⟨-, rfl⟩ | ⟨-, x, -, hfailed⟩ | ⟨-, hcompleted⟩
  · exact State.construct_stream
  · exact hfailed.hostSide.stream
  · exact hcompleted.hostSide.stream

theorem requestIsNew_of_decode (h : decode r.word = .ok i) :
    requestIsNew r m = decide (i.op = .new ∧ i.mode = m) := by
  simp only [requestIsNew, h]

theorem requestIsNew_of_illegal {x : DecodeError} (h : decode r.word = .error x) : requestIsNew r m = false := by
  simp only [requestIsNew, h]

/-- The latched word of a request that is not `NEW.<m>` leaves context `m` and the stream. -/
theorem runLatched_context (hrun : runLatched (execWith p) s = .next t) (hword : s.cmdr = r.word)
    (hnew : requestIsNew r m = false) :
    t.stream = s.stream ∧ t.context m = s.context m ∧ t.iv m = s.iv m := by
  rcases runLatched_cases hrun with ⟨_, -, rfl⟩ | ⟨i, hdecode, hexec⟩
  · have hsame : SameContexts s s.illegal := ⟨rfl, rfl, rfl, rfl, rfl⟩
    exact ⟨rfl, hsame.context m, hsame.iv m⟩
  · rw [hword] at hdecode
    rw [requestIsNew_of_decode hdecode, decide_eq_false_iff_not] at hnew
    exact ⟨execWith_stream hexec, execWith_context hexec fun hop hm => hnew ⟨hop, hm.symm⟩⟩

/-- A step takes at most the first request, and leaves context `m` where that is not `NEW.<m>` (R38). -/
theorem stepWith_context (h : stepWith bound (execWith p) s = .next t)
    (hnew : ∀ r ∈ s.stream.head?, requestIsNew r m = false) :
    t.stream = s.stream.tail ∧ t.context m = s.context m ∧ t.iv m = s.iv m := by
  rcases stepWith_cases h with ⟨hnil, rfl⟩ | ⟨r, rest, u, hstream, -, hrun, rfl⟩
  · simp [hnil]
  · obtain ⟨hrest, hcontext, hiv⟩ := runLatched_context hrun rfl (hnew r (by simp [hstream]))
    simp [hstream, hrest, hcontext, hiv]

/-- Settles O55, by induction on the number of steps: each takes one request of the stream and leaves the context. -/
theorem contextKeptUntilNextNew : Obligations.ContextKeptUntilNextNew := by
  intro p bound k
  induction k with
  | zero =>
    intro s t m _ h
    cases h
    exact ⟨rfl, rfl⟩
  | succ k ih =>
    intro s t m hnew h
    obtain ⟨u, hstep, hrun⟩ := coreWith_run_inv p bound k h
    have hhead : ∀ r ∈ s.stream.head?, requestIsNew r m = false := fun r hr =>
      hnew r (List.mem_of_mem_head? (by rwa [List.head?_take, if_neg k.succ_ne_zero]))
    obtain ⟨hstream, hcontext, hiv⟩ := stepWith_context hstep hhead
    have htail : ∀ r ∈ u.stream.take k, requestIsNew r m = false := fun r hr =>
      hnew r (List.mem_of_mem_tail (by simpa [List.tail_take_eq_take_tail, ← hstream] using hr))
    obtain ⟨hcontext', hiv'⟩ := ih u t m htail hrun
    exact ⟨hcontext'.trans hcontext, hiv'.trans hiv⟩

/-! ### What a result depends on -/

/-- Settles O56: the same error, or no error and the same output, for the same context and message. -/
theorem resultIsFunctionOfContextAndMessage : Obligations.ResultIsFunctionOfContextAndMessage := by
  intro p i s₁ s₂ hop hcontext hiv hdin
  have hengine : s₁.engine i.mode = s₂.engine i.mode := by simp only [State.engine, hcontext, hiv]
  rw [← Instr.of_op_mode i]
  cases hx : messageError i.op i.mode (s₁.context i.mode) s₁.din.length with
  | some x =>
    obtain ⟨t₁, hexec₁, h₁⟩ := execWith_failed (p := p) hop hx
    obtain ⟨t₂, hexec₂, h₂⟩ := execWith_failed (p := p) hop (hdin ▸ hcontext ▸ hx)
    exact ⟨t₁, t₂, hexec₁, hexec₂, h₁.st.trans h₂.st.symm, h₁.err.trans h₂.err.symm, h₁.olen.trans h₂.olen.symm,
      h₁.obuf.trans h₂.obuf.symm, h₁.shows.result.trans h₂.shows.result.symm⟩
  | none =>
    obtain ⟨t₁, hexec₁, h₁⟩ := execWith_succeeded (p := p) hop hx
    obtain ⟨t₂, hexec₂, h₂⟩ := execWith_succeeded (p := p) hop (hdin ▸ hcontext ▸ hx)
    rw [hengine, hdin] at h₁
    exact ⟨t₁, t₂, hexec₁, hexec₂, h₁.st.trans h₂.st.symm, h₁.err.trans h₂.err.symm, h₁.olen.trans h₂.olen.symm,
      h₁.obuf.trans h₂.obuf.symm, h₁.shows.result.trans h₂.shows.result.symm⟩

/-- The engines one command leaves: the one `NEW.<m>` constructs in `m`, if any, and the others as they were (R157 to
R159). -/
theorem transact_engines (c : Engines) (m : Mode) :
    (transact p r c).1 m = if requestIsNew r m then (construction m r.keyIn r.ivIn).toOption else c m := by
  cases hd : decode r.word with
  | error x => rw [transact_illegal hd, requestIsNew_of_illegal hd]; rfl
  | ok i =>
    rw [requestIsNew_of_decode hd]
    obtain ⟨op, k, rfl⟩ : ∃ op k, i = Instr.of op k := ⟨_, _, (Instr.of_op_mode i).symm⟩
    by_cases hop : op = .new
    · subst hop
      simp only [Instr.of_op, Instr.of_mode, true_and, decide_eq_true_eq]
      cases hc : construction k r.keyIn r.ivIn with
      | ok e =>
        rw [transact_new_ok hd hc]
        by_cases hk : k = m
        · subst hk; simp [hc, Except.toOption]
        · simp [hk, Ne.symm hk]
      | error x =>
        rw [transact_new_error hd hc]
        by_cases hk : k = m
        · subst hk; simp [hc, Except.toOption]
        · simp [hk, Ne.symm hk]
    · have hkept : (transact p r c).1 = c := by
        cases he : c k with
        | none => rw [transact_noEngine hop hd he]
        | some e =>
          cases hx : messageCheck op k r.din.length with
          | some x => rw [transact_checked hop hd he hx]
          | none => rw [transact_completed hop hd he hx]
      simp [hkept, hop]

/-- Running the requests `rs` off the stream leaves in each context the engine its last `NEW` among them constructed, and
the run goes on from there with the requests after them (R294, R313). -/
theorem run_leaves_lastNew (rest : List Request) (rs : List Request) (hfits : ∀ r ∈ rs, r.presentable bound = true)
    (hstream : s.stream = rs ++ rest) :
    ∃ t, t.stream = rest ∧ (∀ m, t.engines m = lastNew m rs (s.engines m)) ∧
      ∀ j, (coreWith p bound).run (rs.length + j) s = (coreWith p bound).run j t := by
  induction rs generalizing s with
  | nil => exact ⟨s, hstream, fun _ => rfl, fun j => by rw [List.length_nil, Nat.zero_add]⟩
  | cons r rs ih =>
    obtain ⟨hr, hrs⟩ := List.forall_mem_cons.1 hfits
    obtain ⟨u, hstep, hu, hengines, -⟩ := stepRefinesTransaction p bound s r (rs ++ rest) hstream hr
    obtain ⟨t, ht, hlast, hrun⟩ := ih hrs hu
    refine ⟨t, ht, fun m => ?_, fun j => ?_⟩
    · rw [hlast, hengines, transact_engines, lastNew]
      split <;> rfl
    · rw [List.length_cons, Nat.add_right_comm, coreWith_run_next p bound _ hstep, hrun]

theorem State.reset_engines (rs : List Request) : ({ State.reset with stream := rs } : State).engines = fun _ => none := by
  funext m; cases m <;> rfl

/-- Settles O59: the stream before the last request leaves the engines of the last constructions, and the last step shows
what `transact` says of them. -/
theorem resultFixedByLastConstruction : Obligations.ResultFixedByLastConstruction := by
  intro p bound rs r hfits
  obtain ⟨hrs, hr⟩ := List.forall_mem_append.1 hfits
  obtain ⟨t, hstream, hengines, hrun⟩ :=
    run_leaves_lastNew (p := p) (s := { State.reset with stream := rs ++ [r] }) [r] rs hrs rfl
  obtain ⟨u, hstep, -, -, hresult⟩ := stepRefinesTransaction p bound t r [] hstream (hr r (List.mem_singleton_self r))
  refine ⟨u, ?_, ?_⟩
  · rw [hrun, coreWith_run_next p bound 0 hstep, coreWith_run_zero]
  · rw [hresult, funext hengines, State.reset_engines]

end Sys2Proof.Machine

/-! The registers of a block step, engine by engine (10_state.md R23 to R28): BlockStepRegisters. -/

namespace Sys2Proof.Machine

variable {p : Primitive} {op : Op} {m : Mode} {msg x : Bytes} {s t u : State}

/-! ### Acceptance and LOAD -/

/-- Acceptance and LOAD change no context, and take nothing from the host beyond the request accepted (R28, R96). -/
theorem State.loaded_sameContexts (s : State) (m : Mode) : SameContexts s (s.loaded m) := ⟨rfl, rfl, rfl, rfl, rfl⟩

theorem State.loaded_sameHostSide (s : State) (m : Mode) : SameHostSide s (s.loaded m) := ⟨rfl, rfl, rfl, rfl, rfl⟩

/-! ### The registers the block step of a command writes first -/

/-- The answer of the primitive to the request of a block step: the block in ECB and CBC decryption, the block with the
feedback in CBC encryption, the feedback alone elsewhere (R24, R172, R192, R212, R232, R252). -/
def primitiveAnswer (p : Primitive) (op : Op) (m : Mode) (K fb x : Bytes) : Block :=
  match op, m with
  | .dec, .ecb | .dec, .cbc => p.dec K x
  | _, .ecb => p.enc K x
  | _, .cbc => p.enc K (xorBytes fb x)
  | _, .cfb | _, .ofb | _, .ctr => p.enc K fb

/-- `XB` and `XLEN` hold input block `x`, and `KS` the answer `ks` (R24, R25). -/
structure InputLatched (x : Bytes) (ks : Block) (t : State) : Prop where
  xb : t.xb = x
  xlen : t.xlen = BitVec.ofNat 5 x.length
  ks : t.ks = ks

theorem inputBlock_length_le (i : Nat) : (inputBlock op m msg i).length ≤ 16 := by
  unfold inputBlock
  split
  · exact Nat.le_of_eq (padShort_length (messageBlock_length_le msg i))
  · exact messageBlock_length_le msg i

theorem InputLatched.block {ks : Block} (h : InputLatched x ks t) (hx : x.length ≤ 16) : t.block = x := by
  rw [← State.latchBlock_block t x hx, State.block, h.xb, h.xlen]; rfl

theorem InputLatched.xlen_toNat {ks : Block} (h : InputLatched x ks t) (hx : x.length ≤ 16) :
    t.xlen.toNat = x.length := by
  rw [← State.latchBlock_xlen_toNat t x hx, h.xlen]; rfl

theorem State.decrypt_latched (u : State) (p : Primitive) (m : Mode) (x : Bytes) :
    InputLatched x (p.dec (u.context m).primKey x) ((u.latchBlock x).decrypt p m x) :=
  ⟨rfl, rfl, by rw [State.decrypt_ks, State.latchBlock_context]⟩

theorem InputLatched.feedback {ks : Block} (h : InputLatched x ks t) (v : Bytes) : InputLatched x ks (t.feedback v) :=
  ⟨h.xb, h.xlen, h.ks⟩

/-- Unpadding the output writes none of the registers before it. -/
theorem InputLatched.emitUnpadded {ks : Block} (h : InputLatched x ks t) (y : Bytes) :
    InputLatched x ks (t.emitUnpadded y) where
  xb := (t.emitUnpadded_xb y).trans h.xb
  xlen := (t.emitUnpadded_xlen y).trans h.xlen
  ks := (t.emitUnpadded_ks y).trans h.ks

/-- The block step of every command latches its input block and the answer to its request. -/
theorem blockStepOf_latches (hop : op ≠ .new) (h : InBlocks msg u) (hfb : m = .cbc → u.fb.length = 16)
    (ht : blockStepOf p op m u = .ok t) :
    InputLatched (inputBlock op m msg u.idx)
      (primitiveAnswer p op m (u.context m).primKey u.fb (inputBlock op m msg u.idx)) t := by
  cases op with
  | new => exact absurd rfl hop
  | enc =>
    cases m with
    | ecb => cases ht.symm.trans (encEcbBlock_ok h); exact ⟨rfl, rfl, rfl⟩
    | cbc => cases ht.symm.trans (encCbcBlock_ok h (hfb rfl)); exact ⟨rfl, rfl, rfl⟩
    | cfb => cases ht.symm.trans (encCfbBlock_ok h); exact ⟨rfl, rfl, rfl⟩
    | ofb => cases ht.symm.trans (encOfbBlock_ok h); exact ⟨rfl, rfl, rfl⟩
    | ctr => cases ht.symm.trans (encCtrBlock_ok h); exact ⟨rfl, rfl, rfl⟩
  | dec =>
    cases m with
    | ecb => cases ht.symm.trans (decEcbBlock_ok h); exact (State.decrypt_latched _ _ _ _).emitUnpadded _
    | cbc =>
      cases ht.symm.trans (decCbcBlock_ok h (hfb rfl))
      exact ((State.decrypt_latched _ _ _ _).emitUnpadded _).feedback _
    | cfb => cases ht.symm.trans (decCfbBlock_ok h); exact ⟨rfl, rfl, rfl⟩
    | ofb => cases ht.symm.trans (decOfbBlock_ok h); exact ⟨rfl, rfl, rfl⟩
    | ctr => cases ht.symm.trans (decCtrBlock_ok h); exact ⟨rfl, rfl, rfl⟩

/-! ### All the registers of a block step -/

/-- What the block step of a command leaves in every register, by the block it leaves in `XB` (R23 to R26). -/
structure StepRegisters (p : Primitive) (op : Op) (m : Mode) (msg : Bytes) (u t : State) : Prop where
  only : OnlyBlockStepWrites u t
  input : (inputBlocks op m msg)[u.idx]? = some t.block
  xb : t.xb = t.block
  xlen : t.xlen.toNat = t.block.length
  ks : t.ks = primitiveAnswer p op m (u.context m).primKey u.fb t.block
  fb : t.fb = (cmdStep p op m (u.context m).primKey u.fb t.block).2
  yb : t.yb = if unpads op m = true ∧ u.idx + 1 = u.nblk
    then (unpadOrRaw (cmdStep p op m (u.context m).primKey u.fb t.block).1).1
    else (cmdStep p op m (u.context m).primKey u.fb t.block).1
  utag : t.utag = if unpads op m = true ∧ u.idx + 1 = u.nblk
    then (unpadOrRaw (cmdStep p op m (u.context m).primKey u.fb t.block).1).2 else u.utag
  obuf : t.obuf = Memory.writeBytes u.obuf (16 * u.idx) t.yb

theorem blockStepOf_registers (hop : op ≠ .new) (h : InBlocks msg u) (hfb : m = .cbc → u.fb.length = 16) :
    ∃ t, blockStepOf p op m u = .ok t ∧ StepRegisters p op m msg u t := by
  obtain ⟨t, ht, hs⟩ := blockStepOf_ok (p := p) hop h hfb
  have hl := blockStepOf_latches hop h hfb ht
  have hle := inputBlock_length_le (op := op) (m := m) (msg := msg) u.idx
  have hblock := hl.block hle
  refine ⟨t, ht, ?_⟩
  constructor
  case only => exact onlyBlockStepWrites_of_frame hs.frame hs.idx
  case obuf => exact hs.obuf
  all_goals rw [hblock]
  case input => exact inputBlocks_get? h.idx
  case xb => exact hl.xb
  case xlen => exact hl.xlen_toNat hle
  case ks => exact hl.ks
  case fb => exact hs.fb
  case yb => exact hs.yb
  case utag => exact hs.utag

/-- In a command that does not unpad the output block is the value of the block step. -/
theorem StepRegisters.yb_kept (h : StepRegisters p op m msg u t) (hu : unpads op m = false) :
    t.yb = (cmdStep p op m (u.context m).primKey u.fb t.block).1 := by
  simpa [hu] using h.yb

theorem StepRegisters.utag_kept (h : StepRegisters p op m msg u t) (hu : unpads op m = false) : t.utag = u.utag := by
  simpa [hu] using h.utag

/-- In a command that unpads the last block alone is unpadded (R26). -/
theorem StepRegisters.yb_unpadded (h : StepRegisters p op m msg u t) (hu : unpads op m = true) :
    t.yb = if u.idx + 1 = u.nblk then (unpadOrRaw (cmdStep p op m (u.context m).primKey u.fb t.block).1).1
      else (cmdStep p op m (u.context m).primKey u.fb t.block).1 := by
  simpa [hu] using h.yb

theorem StepRegisters.utag_unpadded (h : StepRegisters p op m msg u t) (hu : unpads op m = true) :
    t.utag = if u.idx + 1 = u.nblk then (unpadOrRaw (cmdStep p op m (u.context m).primKey u.fb t.block).1).2
      else u.utag := by
  simpa [hu] using h.utag

/-! ### The clauses of the claim, for the commands that share one -/

/-- The blocks of ECB and CBC encryption are full (R129), and the output block is the answer (R170, R190). -/
theorem padded_registers {F : State → Bytes} (hm : modeUnpads m = true) (h : InBlocks msg u)
    (hfb : m = .cbc → u.fb.length = 16) (hF : ∀ t, StepRegisters p .enc m msg u t → t.fb = F t) :
    ∃ t, blockStepOf p .enc m u = .ok t ∧ OnlyBlockStepWrites u t ∧ (prepBlocks msg)[u.idx]? = some t.block ∧
      t.xb = t.block ∧ t.xlen.toNat = t.block.length ∧ t.xlen = 16 ∧
      t.ks = primitiveAnswer p .enc m (u.context m).primKey u.fb t.block ∧ t.yb = t.ks.toList ∧ t.fb = F t ∧
      t.utag = u.utag ∧ t.obuf = Memory.writeBytes u.obuf (16 * u.idx) t.yb := by
  obtain ⟨t, ht, hr⟩ := blockStepOf_registers (p := p) (op := .enc) (by decide) h hfb
  have hinput : (prepBlocks msg)[u.idx]? = some t.block := by simpa [inputBlocks, pads, hm] using hr.input
  have hblock : t.block = padShort (messageBlock msg u.idx) := Option.some.inj (hinput.symm.trans (prep_block h.idx))
  have hxlen : t.xlen = 16 := BitVec.eq_of_toNat_eq (by
    rw [hr.xlen, hblock, padShort_length (messageBlock_length_le msg u.idx)]; rfl)
  have hyb : t.yb = t.ks.toList := by
    rw [hr.yb_kept rfl, hr.ks]
    cases m with
    | ecb | cbc => rfl
    | cfb | ofb | ctr => cases hm
  exact ⟨t, ht, hr.only, hinput, hr.xb, hr.xlen, hxlen, hr.ks, hyb, hF t hr, hr.utag_kept rfl, hr.obuf⟩

/-- ECB and CBC decryption unpad the last output block in its step (R26; log 15); `Q` is the block before. -/
theorem unpadded_registers {F Q : State → Bytes} (hm : modeUnpads m = true) (h : InBlocks msg u)
    (hfb : m = .cbc → u.fb.length = 16)
    (hF : ∀ t, (cmdStep p .dec m (u.context m).primKey u.fb t.block).2 = F t)
    (hQ : ∀ t, StepRegisters p .dec m msg u t → (cmdStep p .dec m (u.context m).primKey u.fb t.block).1 = Q t) :
    ∃ t, blockStepOf p .dec m u = .ok t ∧ OnlyBlockStepWrites u t ∧ (chunk msg)[u.idx]? = some t.block ∧
      t.xb = t.block ∧ t.xlen.toNat = t.block.length ∧
      t.ks = primitiveAnswer p .dec m (u.context m).primKey u.fb t.block ∧ t.fb = F t ∧
      t.yb = (if u.idx + 1 = u.nblk then (unpadOrRaw (Q t)).1 else Q t) ∧
      t.utag = (if u.idx + 1 = u.nblk then (unpadOrRaw (Q t)).2 else u.utag) ∧
      t.obuf = Memory.writeBytes u.obuf (16 * u.idx) t.yb := by
  obtain ⟨t, ht, hr⟩ := blockStepOf_registers (p := p) (op := .dec) (by decide) h hfb
  have hunpads : unpads .dec m = true := hm
  have hyb := hr.yb_unpadded hunpads
  have hutag := hr.utag_unpadded hunpads
  rw [hQ t hr] at hyb hutag
  exact ⟨t, ht, hr.only, hr.input, hr.xb, hr.xlen, hr.ks, hr.fb.trans (hF t), hyb, hutag, hr.obuf⟩

/-- CFB, OFB and CTR: the block as it was cut, with the keystream of the feedback (R210 to R212, R232, R252). -/
theorem keystream_registers {F : State → Bytes} (hop : op ≠ .new) (hm : modeUnpads m = false) (h : InBlocks msg u)
    (hF : ∀ t, StepRegisters p op m msg u t → t.fb = F t) :
    ∃ t, blockStepOf p op m u = .ok t ∧ OnlyBlockStepWrites u t ∧ (chunk msg)[u.idx]? = some t.block ∧
      t.xb = t.block ∧ t.xlen.toNat = t.block.length ∧
      t.ks = p.enc (u.context m).primKey u.fb ∧ t.yb = xorBytes t.block (trunc t.ks t.block.length) ∧ t.fb = F t ∧
      t.utag = u.utag ∧ t.obuf = Memory.writeBytes u.obuf (16 * u.idx) t.yb := by
  have hcbc : m ≠ .cbc := by rintro rfl; cases hm
  have hunpads : unpads op m = false := by simp [unpads, hm]
  obtain ⟨t, ht, hr⟩ := blockStepOf_registers (p := p) hop h fun e => absurd e hcbc
  have hinput : (chunk msg)[u.idx]? = some t.block := by simpa [inputBlocks, pads, hm] using hr.input
  have hks : t.ks = p.enc (u.context m).primKey u.fb := by
    rw [hr.ks]
    cases m with
    | ecb | cbc => cases hm
    | cfb | ofb | ctr => cases op <;> rfl
  have hyb : t.yb = xorBytes t.block (trunc t.ks t.block.length) := by
    rw [hr.yb_kept hunpads, hks]
    cases m with
    | ecb | cbc => cases hm
    | cfb | ofb | ctr => cases op <;> rfl
  exact ⟨t, ht, hr.only, hinput, hr.xb, hr.xlen, hks, hyb, hF t hr, hr.utag_kept hunpads, hr.obuf⟩

/-- Settles O25: acceptance and LOAD write the fields named; each block step is one of the three kinds above, with the
feedback of its own mode. -/
theorem blockStepRegisters : Obligations.BlockStepRegisters := by
  refine ⟨?_, fun p msg u hibuf hilen hidx => ?_⟩
  · rintro s m _ rfl
    refine ⟨rfl, rfl, rfl, rfl, rfl, rfl, rfl, rfl, rfl, rfl, fun iv => State.loaded_fb s, ?_, ?_, ?_,
      rfl, rfl, rfl, rfl, rfl, rfl, State.loaded_sameContexts s m, State.loaded_sameHostSide s m⟩
    · rintro rfl; rfl
    · exact State.loadedEngine_iv_length (s := s)
    · exact fun hdin => blockCount_pos (by simpa using hdin)
  have h : InBlocks msg u := ⟨hibuf, hilen, hidx⟩
  refine ⟨?_, ?_, fun hfb => ⟨?_, ?_, ?_, ?_, ?_, ?_, ?_, ?_⟩⟩
  · exact padded_registers (m := .ecb) rfl h nofun fun t hr => hr.fb
  · exact unpadded_registers (m := .ecb) rfl h nofun (fun _ => rfl) fun t hr => by rw [hr.ks]; rfl
  · exact padded_registers (m := .cbc) rfl h (fun _ => hfb) fun t hr => hr.fb.trans (hr.yb_kept rfl).symm
  · exact unpadded_registers (m := .cbc) rfl h (fun _ => hfb) (fun _ => rfl) fun t hr => by rw [hr.ks]; rfl
  · exact keystream_registers (op := .enc) (m := .cfb) nofun rfl h fun t hr => hr.fb.trans (hr.yb_kept rfl).symm
  · exact keystream_registers (op := .dec) (m := .cfb) nofun rfl h fun t hr => hr.fb
  · exact keystream_registers (op := .enc) (m := .ofb) nofun rfl h fun t hr => by rw [hr.ks]; exact hr.fb
  · exact keystream_registers (op := .dec) (m := .ofb) nofun rfl h fun t hr => by rw [hr.ks]; exact hr.fb
  · exact keystream_registers (op := .enc) (m := .ctr) nofun rfl h fun t hr => hr.fb
  · exact keystream_registers (op := .dec) (m := .ctr) nofun rfl h fun t hr => hr.fb

end Sys2Proof.Machine

/-! The buffers and the blocks written to them (20_memory.md R61 to R63, R78, 70_reset_and_hazards.md R316):
StepNeverFaults, MemWriteSetsItsBytes, ScheduleIndependence. -/

namespace Sys2Proof.Machine

variable {p : Primitive} {op : Op} {m : Mode} {e : Engine} {msg : Bytes} {i : Nat} {s : State}

/-- Settles O33: read after write, byte by byte of `v`, and that each byte written keeps the canonical form. -/
theorem memWriteSetsItsBytes : Obligations.MemWriteSetsItsBytes :=
  fun m a v k => ⟨Memory.read_writeBytes m a k v, Memory.wf_writeBytes v m a⟩

/-! ### No fault -/

/-- The ports refuse only a message longer than a bound there is (R61). -/
theorem Request.presentable_eq_false {r : Request} {bound : Option Nat} (h : r.presentable bound = false) :
    ∃ n, bound = some n ∧ n < r.din.length := by
  cases bound with
  | none => cases h
  | some n => exact ⟨n, rfl, by simpa [Request.presentable, fitsPort] using h⟩

/-- Settles O7: a step idles, or runs a request to a next state (as it does by R5's agreement of the two forms), or meets a
request that the ports cannot carry. -/
theorem stepNeverFaults : Obligations.StepNeverFaults := by
  intro p bound s
  cases hs : s.stream with
  | nil => exact .inl ⟨s, by simp only [stepWith, hs]⟩
  | cons r rest =>
    cases hfits : r.presentable bound with
    | true =>
      obtain ⟨t, ht, -⟩ := stepRefinesTransaction p bound s r rest hs hfits
      exact .inl ⟨t, ht⟩
    | false =>
      obtain ⟨n, hn, hlong⟩ := Request.presentable_eq_false hfits
      exact .inr ⟨r, rest, n, rfl, hn, hlong, by simp [stepWith, hs, hfits]⟩

/-! ### Blocks written in any order -/

theorem writeInOrder_concat (f : Nat → Bytes) (order : List Nat) (i : Nat) :
    writeInOrder f (order ++ [i]) = Memory.writeBytes (writeInOrder f order) (blockOffset i) (f i) := by
  simp [writeInOrder]

theorem wf_writeInOrder (f : Nat → Bytes) (order : List Nat) : Memory.wf (writeInOrder f order) = true := by
  induction order using List.reverseRecOn with
  | nil => rfl
  | append_singleton order i ih =>
    rw [writeInOrder_concat]
    exact Memory.wf_writeBytes _ _ _ ih

/-- Blocks of up to 16 bytes never overlap, so what is read depends on which blocks are written, not on their order. -/
theorem read_writeInOrder {f : Nat → Bytes} {order : List Nat} (hf : ∀ i ∈ order, (f i).length ≤ 16) (a : Nat) :
    Memory.read (writeInOrder f order) a = if a / 16 ∈ order then (f (a / 16))[a % 16]? else none := by
  induction order using List.reverseRecOn with
  | nil => rfl
  | append_singleton order i ih =>
    rw [writeInOrder_concat, read_writeBytes_block (hf i (by simp)), ih fun j hj => hf j (by simp [hj])]
    by_cases ha : a / 16 = i
    · subst ha
      by_cases hlt : a % 16 < (f (a / 16)).length
      · simp [hlt]
      · simp [hlt]
    · simp [ha]

/-- An `ENC` or `DEC` whose checks pass leaves its output blocks in `OBUF`, as writing them in any order does (R78). -/
theorem execWith_writeInOrder {f : Nat → Bytes} {order : List Nat} (hop : op ≠ .new)
    (hv : (s.context m).valid = true) (hc : messageCheck op m s.din.length = none)
    (horder : order.Perm (List.range (blockCount s.din.length)))
    (hf : ∀ i, i < blockCount s.din.length → (outBlocks p op m (s.engine m) s.din)[i]? = some (f i)) :
    ∃ t, execWith p (Instr.of op m) s = .next t ∧ t.st = .done ∧ t.obuf = writeInOrder f order := by
  obtain ⟨u, hdone, hexec⟩ := execWith_blocksDone (p := p) hop hv hc
  have hmem : ∀ i, i ∈ order ↔ i < blockCount s.din.length := fun i => horder.mem_iff.trans List.mem_range
  have hlen : ∀ i ∈ order, (f i).length ≤ 16 := fun i hi =>
    outBlocks_length_le (fun h => State.engine_iv_length (by simp [h])) ((hmem i).1 hi) (hf i ((hmem i).1 hi))
  refine ⟨_, hexec, rfl, show u.obuf = writeInOrder f order from ?_⟩
  refine Memory.ext_read _ _ hdone.obufWf (wf_writeInOrder f order) fun a => ?_
  rw [hdone.obuf, read_writeInOrder hlen]
  by_cases ha : a / 16 < blockCount s.din.length
  · have hget : (outBlocks p op m (s.engine m) s.din).getD (a / 16) [] = f (a / 16) := by
      rw [List.getD_eq_getElem?_getD, hf _ ha, Option.getD_some]
    simp only [hmem, List.mem_range, ha, if_true, hget]
  · simp [hmem, ha]

/-! ### Each block by its index alone -/

theorem chunk_getD (h : i < blockCount msg.length) : (chunk msg).getD i [] = messageBlock msg i := by
  rw [List.getD_eq_getElem?_getD, chunk_block h, Option.getD_some]

theorem prepBlocks_getD (h : i < blockCount msg.length) :
    (prepBlocks msg).getD i [] = padShort (messageBlock msg i) := by
  rw [List.getD_eq_getElem?_getD, prep_block h, Option.getD_some]

/-- In `DEC.CBC` and `DEC.CFB` every feedback value is the input block before, or the IV (R193, R213). -/
theorem feedbackAt_inputBefore (hm : m = .cbc ∨ m = .cfb) (h : i < blockCount msg.length) :
    feedbackAt p .dec m e msg i = inputBefore e.iv (chunk msg) i := by
  cases i with
  | zero => exact feedbackAt_zero
  | succ j =>
    rw [feedbackAt_succ (by omega), inputBefore, chunk_getD (by omega)]
    rcases hm with rfl | rfl <;> rfl

/-- In OFB the primitive's answer to every feedback value is the keystream block (R230, R231). -/
theorem enc_feedbackAt_ofb (h : i < blockCount msg.length) :
    (p.enc e.key (feedbackAt p op .ofb e msg i)).toList = ofbKeystream p e.key e.iv i := by
  induction i with
  | zero => rw [feedbackAt_zero]; rfl
  | succ j ih =>
    rw [feedbackAt_succ (by omega), ofbKeystream, ← ih (by omega)]
    cases op <;> rfl

/-- In CTR every feedback value is the counter block (R128, R252), whatever the engine. -/
theorem feedbackAt_counterBlock (hiv : e.iv.length = 16) (h : i < blockCount msg.length) :
    feedbackAt p op .ctr e msg i = counterBlock e.iv i := by
  rw [feedbackAt, chainFb_iterate (g := inc128) (by cases op <;> exact fun _ _ => rfl) _ _
    (by rw [inputBlocks_length]; omega), inc128_iterate hiv]

/-- Raw output block `i` of OFB, in both directions (R233). -/
theorem rawBlock_ofb (h : i < blockCount msg.length) :
    rawBlock p op .ofb e msg i =
      xorBytes (messageBlock msg i) ((ofbKeystream p e.key e.iv i).take (messageBlock msg i).length) := by
  rw [← enc_feedbackAt_ofb (op := op) h]
  cases op <;> rfl

/-- Raw output block `i` of CTR, in both directions (R252). -/
theorem rawBlock_ctr (hiv : e.iv.length = 16) (h : i < blockCount msg.length) :
    rawBlock p op .ctr e msg i =
      xorBytes (messageBlock msg i) (trunc (p.enc e.key (counterBlock e.iv i)) (messageBlock msg i).length) := by
  rw [← feedbackAt_counterBlock (p := p) (op := op) hiv h]
  cases op <;> rfl

/-- Where R316 lists the blocks of an `ENC` as independent, output block `i` is a function of `i` alone. -/
theorem rawBlock_enc {y : Bytes} (hiv : m ≠ .ecb → e.iv.length = 16) (h : i < blockCount msg.length)
    (hy : encBlockAt p m e msg i = some y) : rawBlock p .enc m e msg i = y := by
  cases m with
  | cbc | cfb => cases hy
  | ecb =>
    rw [encBlockAt, prepBlocks_getD h] at hy
    exact Option.some.inj hy
  | ofb =>
    rw [encBlockAt, chunk_getD h] at hy
    exact (rawBlock_ofb h).trans (Option.some.inj hy)
  | ctr =>
    rw [encBlockAt, chunk_getD h] at hy
    exact (rawBlock_ctr (hiv nofun) h).trans (Option.some.inj hy)

/-- Raw output block `i` of a `DEC` is a function of `i` alone, in every mode (R172, R193, R213, R233, R252). -/
theorem rawBlock_dec (hiv : m ≠ .ecb → e.iv.length = 16) (h : i < blockCount msg.length) :
    rawBlock p .dec m e msg i = rawDecBlockAt p m e msg i := by
  simp only [rawDecBlockAt, chunk_getD h]
  cases m with
  | ecb => rfl
  | cbc => rw [← feedbackAt_inputBefore (p := p) (.inl rfl) h]; rfl
  | cfb => rw [← feedbackAt_inputBefore (p := p) (.inr rfl) h]; rfl
  | ofb => exact rawBlock_ofb h
  | ctr => exact rawBlock_ctr (hiv nofun) h

/-- Output block `i` of an `ENC` as a function of `i` alone (R316). -/
theorem outBlocks_enc_get? {y : Bytes} (hiv : m ≠ .ecb → e.iv.length = 16) (h : i < blockCount msg.length)
    (hy : encBlockAt p m e msg i = some y) : (outBlocks p .enc m e msg)[i]? = some y := by
  rw [outBlocks_get? h, rawBlock_enc hiv h hy]
  simp [unpads]

/-- Output block `i` of a `DEC` as a function of `i` alone, the last one unpadded where the mode unpads (R316, R317). -/
theorem outBlocks_dec_get? (hiv : m ≠ .ecb → e.iv.length = 16) (h : i < blockCount msg.length) :
    (outBlocks p .dec m e msg)[i]? = some (decBlockAt p m e msg i) := by
  rw [outBlocks_get? h, rawBlock_dec hiv h]
  simp [decBlockAt, unpads]

/-! ### The messages that pass the length checks (R67) -/

theorem nonEmptyCheck_none (h : msg ≠ []) : nonEmptyCheck msg.length = none :=
  if_neg (by simpa using h)

theorem ctCheck_none (h : msg ≠ []) (h16 : msg.length % 16 = 0) : ctCheck msg.length = none := by
  have hpos : msg.length ≠ 0 := by simpa using h
  rw [ctCheck, if_neg hpos, if_neg (by omega)]

/-- Settles O48: the command leaves its output blocks in `OBUF`, whatever order they are written in, and each of them is a
function of its index alone. -/
theorem scheduleIndependence : Obligations.ScheduleIndependence := by
  intro p m s order hv hdin horder
  have hiv : m ≠ .ecb → (s.engine m).iv.length = 16 := State.engine_iv_length
  have hdec : messageCheck .dec m s.din.length = none →
      ∃ t, execWith p (Instr.of .dec m) s = .next t ∧ t.st = .done ∧
        t.obuf = writeInOrder (decBlockAt p m (s.engine m) s.din) order := fun hc =>
    execWith_writeInOrder nofun hv hc horder fun i hi => outBlocks_dec_get? hiv hi
  refine ⟨fun f hf => ?_, fun hm h16 => hdec ?_, fun hm => hdec ?_⟩
  · exact execWith_writeInOrder nofun hv (nonEmptyCheck_none hdin) horder fun i hi => outBlocks_enc_get? hiv hi (hf i hi)
  · rw [messageCheck_dec, decCheck, if_pos hm, ctCheck_none hdin h16]
  · rw [messageCheck_dec, decCheck, hm, if_neg Bool.false_ne_true, nonEmptyCheck_none hdin]

end Sys2Proof.Machine

/-! The command word (30_encoding.md R90, R98, R99): decoding as the inverse of encoding, field by field.
FifteenCommandWords, DecodeIffEncode. -/

namespace Sys2Proof

variable {w v : BitVec 8} {op : Op} {m : Mode} {i : Instr}

/-! ### The fields -/

/-- A word is its three fields (R90). -/
theorem word_eq_of_fields (hrsv : rsvField w = rsvField v) (hop : opField w = opField v)
    (hmode : modeField w = modeField v) : w = v := by
  have hrsv' := congrArg BitVec.toNat hrsv
  have hop' := congrArg BitVec.toNat hop
  have hmode' := congrArg BitVec.toNat hmode
  simp only [rsvField, opField, modeField, BitVec.extractLsb'_toNat, Nat.shiftRight_eq_div_pow] at hrsv' hop' hmode'
  apply BitVec.eq_of_toNat_eq
  omega

/-- Where the fields of a command's word stand, and its value (R90, R98). -/
theorem encode_fields (i : Instr) : Laws.WordFields.Statement i := by
  cases i
  case newEcb => exact Laws.WordFields.newEcb
  case newCbc => exact Laws.WordFields.newCbc
  case newCfb => exact Laws.WordFields.newCfb
  case newOfb => exact Laws.WordFields.newOfb
  case newCtr => exact Laws.WordFields.newCtr
  case encEcb => exact Laws.WordFields.encEcb
  case encCbc => exact Laws.WordFields.encCbc
  case encCfb => exact Laws.WordFields.encCfb
  case encOfb => exact Laws.WordFields.encOfb
  case encCtr => exact Laws.WordFields.encCtr
  case decEcb => exact Laws.WordFields.decEcb
  case decCbc => exact Laws.WordFields.decCbc
  case decCfb => exact Laws.WordFields.decCfb
  case decOfb => exact Laws.WordFields.decOfb
  case decCtr => exact Laws.WordFields.decCtr

/-- A word is a command's word exactly when it has that command's fields. -/
theorem eq_encode_iff : w = encode i ↔
    rsvField w = 0 ∧ opField w = encodeOp i.op ∧ modeField w = encodeMode i.mode := by
  obtain ⟨hrsv, hop, hmode, -⟩ := encode_fields i
  constructor
  · rintro rfl
    exact ⟨hrsv, hop, hmode⟩
  · rintro ⟨hrsv', hop', hmode'⟩
    exact word_eq_of_fields (hrsv'.trans hrsv.symm) (hop'.trans hop.symm) (hmode'.trans hmode.symm)

/-- The `OP` codes decode to their operations, and no other code does (R90). -/
theorem decodeOp_eq_some {f : BitVec 3} : decodeOp f = some op ↔ f = encodeOp op := by
  cases op <;> revert f <;> decide

/-- The `MODE` codes decode to their engines, and no other code does (R90). -/
theorem decodeMode_eq_some {f : BitVec 3} : decodeMode f = some m ↔ f = encodeMode m := by
  cases m <;> revert f <;> decide

/-- The operation codes that are not reserved (R90). -/
theorem exists_eq_encodeOp {f : BitVec 3} : (∃ op, f = encodeOp op) ↔ f = 1 ∨ f = 2 ∨ f = 3 := by
  constructor
  · rintro ⟨op, rfl⟩
    cases op <;> decide
  · rintro (rfl | rfl | rfl)
    exacts [⟨.new, rfl⟩, ⟨.enc, rfl⟩, ⟨.dec, rfl⟩]

/-- The mode codes that are not reserved (R90). -/
theorem exists_eq_encodeMode {f : BitVec 3} : (∃ m, f = encodeMode m) ↔ f.toNat ≤ 4 := by
  constructor
  · rintro ⟨m, rfl⟩
    cases m <;> decide
  · intro h
    have hm : ∃ m, decodeMode f = some m := by
      unfold decodeMode
      interval_cases f.toNat
      exacts [⟨_, rfl⟩, ⟨_, rfl⟩, ⟨_, rfl⟩, ⟨_, rfl⟩, ⟨_, rfl⟩]
    obtain ⟨m, hm⟩ := hm
    exact ⟨m, decodeMode_eq_some.1 hm⟩

/-! ### The decoder -/

/-- The decoder looks at the three fields, each for itself (R99). -/
theorem decode_eq_ok : decode w = .ok i ↔
    rsvField w = 0 ∧ decodeOp (opField w) = some i.op ∧ decodeMode (modeField w) = some i.mode := by
  unfold decode
  by_cases hrsv : rsvField w = 0
  · rw [if_neg (not_not_intro hrsv)]
    cases hop : decodeOp (opField w) with
    | none => simp
    | some op =>
      cases hmode : decodeMode (modeField w) with
      | none => simp
      | some m =>
        simp only [hrsv, Except.ok.injEq, Option.some.injEq, true_and]
        constructor
        · rintro rfl
          exact ⟨(Machine.Instr.of_op op m).symm, (Machine.Instr.of_mode op m).symm⟩
        · rintro ⟨rfl, rfl⟩
          exact Machine.Instr.of_op_mode i
  · rw [if_pos hrsv]
    exact iff_of_false nofun fun ⟨hzero, _⟩ => hrsv hzero

/-- A word decodes to a command exactly when it is that command's word (R98, R99). -/
theorem decode_eq_ok_iff_eq_encode : decode w = .ok i ↔ w = encode i := by
  rw [decode_eq_ok, decodeOp_eq_some, decodeMode_eq_some, eq_encode_iff]

@[simp] theorem decode_encode (i : Instr) : decode (encode i) = .ok i := decode_eq_ok_iff_eq_encode.2 rfl

theorem encode_injective : Function.Injective encode := fun i j h =>
  Except.ok.inj ((decode_encode i).symm.trans (h ▸ decode_encode j))

/-- A number of the opcode table is a command exactly when it is that command's word (R98, log 2). -/
theorem decodeTableWord_eq_some {nbits w : Nat} :
    decodeTableWord nbits w = some i ↔ nbits ≤ 8 ∧ w = (encode i).toNat := by
  have hlt : (encode i).toNat < 256 := (encode i).isLt
  unfold decodeTableWord
  split
  · next h =>
    obtain ⟨hbits, hw⟩ := h
    have hok : (decode (BitVec.ofNat 8 w)).toOption = some i ↔ decode (BitVec.ofNat 8 w) = .ok i := by
      cases decode (BitVec.ofNat 8 w) <;> simp [Except.toOption]
    have hmod : w % 2 ^ 8 = w := Nat.mod_eq_of_lt hw
    rw [hok, decode_eq_ok_iff_eq_encode, ← BitVec.toNat_inj, BitVec.toNat_ofNat, hmod]
    exact (and_iff_right hbits).symm
  · next h =>
    refine iff_of_false nofun ?_
    rintro ⟨hbits, rfl⟩
    exact h ⟨hbits, hlt⟩

/-- Settles O2: the decoder looks at each field for itself, each field's code decodes to what it encodes, and a word is its
fields. -/
theorem decodeIffEncode : Obligations.DecodeIffEncode :=
  ⟨fun _ _ => decode_eq_ok_iff_eq_encode, fun _ _ _ => decodeTableWord_eq_some⟩

/-- Settles O1: the words of R98 are what the commands encode to, and each decodes to its command. -/
theorem fifteenCommandWords : Obligations.FifteenCommandWords := by
  refine ⟨⟨decode_encode .newEcb, decode_encode .newCbc, decode_encode .newCfb, decode_encode .newOfb,
    decode_encode .newCtr, decode_encode .encEcb, decode_encode .encCbc, decode_encode .encCfb, decode_encode .encOfb,
    decode_encode .encCtr, decode_encode .decEcb, decode_encode .decCbc, decode_encode .decCfb, decode_encode .decOfb,
    decode_encode .decCtr⟩, fun i => ?_⟩
  obtain ⟨-, -, -, hvalue⟩ := encode_fields i
  exact hvalue

end Sys2Proof

/-! The illegal words (30_encoding.md R99): which they are, how many, and what one does. IllegalWordNextState,
IllegalWordsOnlyReportIllegalCommand. -/

namespace Sys2Proof

/-! ### How many -/

/-- The commands, in the order of R98. -/
def commands : List Instr :=
  [.newEcb, .newCbc, .newCfb, .newOfb, .newCtr, .encEcb, .encCbc, .encCfb, .encOfb, .encCtr,
    .decEcb, .decCbc, .decCfb, .decOfb, .decCtr]

theorem mem_commands (i : Instr) : i ∈ commands := by cases i <;> decide

theorem nodup_commands : commands.Nodup := by decide

/-- The numbers of eight bits that are commands are the commands' words. -/
theorem legalWords_perm :
    ((List.range 256).filter fun w => !decide (decodeTableWord 8 w = none)).Perm
      (commands.map fun i => (encode i).toNat) := by
  have hinj : Function.Injective fun i => (encode i).toNat :=
    fun i j h => encode_injective (BitVec.eq_of_toNat_eq h)
  rw [List.perm_ext_iff_of_nodup (List.nodup_range.filter _) (nodup_commands.map hinj)]
  intro w
  have hlegal : ¬ decodeTableWord 8 w = none ↔ ∃ i, w = (encode i).toNat := by
    simp [← ne_eq, Option.ne_none_iff_exists', decodeTableWord_eq_some]
  have hlt : ∀ i, (encode i).toNat < 256 := fun i => (encode i).isLt
  simp only [List.mem_filter, List.mem_range, Bool.not_eq_true', decide_eq_false_iff_not, hlegal, List.mem_map,
    mem_commands, true_and]
  constructor
  · rintro ⟨-, i, rfl⟩
    exact ⟨i, rfl⟩
  · rintro ⟨i, rfl⟩
    exact ⟨hlt i, i, rfl⟩

/-- 241 of the 256 words are illegal (R99): all but the fifteen commands' words. -/
theorem illegalWords_length :
    ((List.range 256).filter fun w => decide (decodeTableWord 8 w = none)).length = 241 := by
  have hall := List.length_eq_length_filter_add (l := List.range 256) fun w => decide (decodeTableWord 8 w = none)
  have hfifteen : (commands.map fun i => (encode i).toNat).length = 15 := rfl
  rw [legalWords_perm.length_eq, hfifteen, List.length_range] at hall
  omega

/-- The legal words by their fields: no reserved bit, operation or mode (R90, R99). -/
theorem exists_decode_eq_ok {w : BitVec 8} : (∃ i, decode w = .ok i) ↔
    rsvField w = 0 ∧ (opField w = 1 ∨ opField w = 2 ∨ opField w = 3) ∧ (modeField w).toNat ≤ 4 := by
  rw [← exists_eq_encodeOp, ← exists_eq_encodeMode]
  constructor
  · rintro ⟨i, h⟩
    obtain ⟨hrsv, hop, hmode⟩ := eq_encode_iff.1 (decode_eq_ok_iff_eq_encode.1 h)
    exact ⟨hrsv, ⟨_, hop⟩, ⟨_, hmode⟩⟩
  · rintro ⟨hrsv, ⟨op, hop⟩, ⟨m, hmode⟩⟩
    refine ⟨Instr.of op m, decode_eq_ok_iff_eq_encode.2 (eq_encode_iff.2 ?_)⟩
    rw [Machine.Instr.of_op, Machine.Instr.of_mode]
    exact ⟨hrsv, hop, hmode⟩

end Sys2Proof

namespace Sys2Proof.Machine

/-! ### What one does -/

/-- A step on an illegal word accepts it, raises `IllegalCommand` and releases `CMDR` (R28, R99). -/
theorem step_illegal {s : State} {r : Request} {rest : List Request} (hstream : s.stream = r :: rest)
    (hillegal : ∀ i, decode r.word ≠ .ok i) : step s = .next (s.accept r rest).illegal.releaseWord := by
  have hfits : r.presentable Config.maxMsgBytes = true := rfl
  cases hdecode : decode r.word with
  | ok i => exact absurd hdecode (hillegal i)
  | error x =>
    simp only [step, stepWith, hstream, hfits, if_true, runLatched, State.accept_cmdr, hdecode]
    rfl

/-- Settles O4: the state that the operations of `step_illegal` leave, written out. -/
theorem illegalWordNextState : Obligations.IllegalWordNextState :=
  fun _ _ _ hstream hillegal => step_illegal hstream hillegal

/-- Settles O3: the legal words are those with no reserved field, their numbers are the fifteen commands' words, and what an
illegal one writes is `ST`, `ERR`, `OLEN`, `OBUF`, `CMDR` and the ports. -/
theorem illegalWordsOnlyReportIllegalCommand : Obligations.IllegalWordsOnlyReportIllegalCommand := by
  refine ⟨fun w => exists_decode_eq_ok, fun w i h => ?_, illegalWords_length, fun s r rest hstream hillegal => ?_⟩
  · obtain ⟨-, hfields⟩ := eq_encode_iff.1 (decode_eq_ok_iff_eq_encode.1 h)
    exact hfields
  · exact ⟨_, step_illegal hstream hillegal, rfl, rfl, rfl, ⟨rfl, rfl, rfl, rfl, rfl⟩,
      ⟨rfl, rfl, rfl, rfl, rfl, rfl, rfl⟩, rfl, rfl, rfl⟩

end Sys2Proof.Machine

/-! The operand ports a command ignores (30_encoding.md R93): IgnoredPortsDoNotMatter. -/

namespace Sys2Proof.Machine

variable {p : Primitive} {op : Op} {m : Mode} {e : Engine} {s t u : State} {D : List Nat} {k : Bytes} {x : Option Bytes}

/-! ### Construction -/

/-- `NEW.<m>` does not look at DIN. -/
theorem State.construct_ignores_din (s : State) (m : Mode) (d : Bytes) :
    ({ s with din := d } : State).construct m = { s.construct m with din := d } := by
  simp only [State.construct, State.start_keyIn, State.start_ivIn]
  cases KeyLen.ofLength s.keyIn.length with
  | none => cases m <;> rfl
  | some kl => cases ivOperand m s.ivIn <;> cases m <;> rfl

/-- `NEW.ECB` does not look at IVIN (R151). -/
theorem State.construct_ecb_ignores_ivIn (s : State) (x : Option Bytes) :
    ({ s with ivIn := x } : State).construct .ecb = { s.construct .ecb with ivIn := x } := by
  have hignored : ∀ iv, ivOperand .ecb iv = .ignored := fun _ => rfl
  simp only [State.construct, State.start_keyIn, hignored]
  cases KeyLen.ofLength s.keyIn.length <;> rfl

/-! ### Encryption and decryption -/

/-- `s` with other operands of a `NEW` on the ports: KEYIN carries `k`, IVIN carries `x`. -/
def State.withNewPorts (s : State) (k : Bytes) (x : Option Bytes) : State := { s with keyIn := k, ivIn := x }

@[simp] theorem State.withNewPorts_din : (s.withNewPorts k x).din = s.din := rfl

@[simp] theorem State.withNewPorts_context : (s.withNewPorts k x).context m = s.context m := by cases m <;> rfl

@[simp] theorem State.withNewPorts_engine : (s.withNewPorts k x).engine m = s.engine m := by cases m <;> rfl

/-- Two states that agree but for block registers and output agree so with other operands on the ports. -/
theorem State.withNewPorts_frame (h : u.frame = t.frame) :
    (u.withNewPorts k x).frame = (t.withNewPorts k x).frame :=
  congrArg (State.withNewPorts · k x) h

/-- The LOAD phase does not look at KEYIN and IVIN. -/
theorem State.loaded_withNewPorts : (s.withNewPorts k x).loaded m = (s.loaded m).withNewPorts k x := by
  cases m <;> rfl

/-- The blocks that are done are done whatever KEYIN and IVIN carry. -/
theorem BlocksDone.withNewPorts (h : BlocksDone p op m e s D u) :
    BlocksDone p op m e (s.withNewPorts k x) D (u.withNewPorts k x) where
  frame := by rw [State.loaded_withNewPorts]; exact State.withNewPorts_frame h.frame
  obufWf := h.obufWf
  obuf := h.obuf
  utag := by rw [State.loaded_withNewPorts]; exact h.utag

/-- A failing `ENC` or `DEC` does not look at KEYIN and IVIN: both ports keep what they carry. -/
theorem failed_withNewPorts (s : State) (y : ErrName) :
    ((s.withNewPorts k x).start.acceptMessage.raise y).dropMessage =
      ((s.start.acceptMessage.raise y).dropMessage).withNewPorts k x := rfl

/-- `ENC` and `DEC` do not look at KEYIN and IVIN. A success leaves the state that its blocks determine, and they are done
on the same message with the same engine. -/
theorem execWith_ignores_newPorts (hop : op ≠ .new) (h : execWith p (Instr.of op m) s = .next t) :
    execWith p (Instr.of op m) (s.withNewPorts k x) = .next (t.withNewPorts k x) := by
  cases hv : (s.context m).valid with
  | false =>
    rw [execWith_noEngine hop hv] at h
    cases h
    rw [execWith_noEngine hop (by simpa using hv), failed_withNewPorts]
  | true =>
    have hv' : ((s.withNewPorts k x).context m).valid = true := by simpa using hv
    cases hc : messageCheck op m s.din.length with
    | some y =>
      rw [execWith_checked hop hv hc] at h
      cases h
      rw [execWith_checked hop hv' hc, failed_withNewPorts]
    | none =>
      obtain ⟨u, hdone, hexec⟩ := execWith_blocksDone (p := p) hop hv hc
      obtain ⟨u', hdone', hexec'⟩ := execWith_blocksDone (p := p) hop hv' hc
      cases h.symm.trans hexec
      rw [State.withNewPorts_engine] at hdone'
      rw [hexec', hdone'.final_eq hdone.withNewPorts]
      rfl

/-- Settles O14: a `NEW` is its construction, which reads KEYIN and IVIN only; an `ENC` or `DEC` reads neither. -/
theorem ignoredPortsDoNotMatter : Obligations.IgnoredPortsDoNotMatter := by
  intro i s t h
  rw [exec_eq_execWith] at h ⊢
  refine ⟨fun hop d => ?_, ?_, fun hop k x => ?_⟩
  · rw [← Instr.of_op_mode i, hop, execWith_new] at h ⊢
    cases h
    rw [State.construct_ignores_din]
  · rintro rfl x
    rw [show Instr.newEcb = Instr.of .new .ecb from rfl, execWith_new] at h ⊢
    cases h
    rw [State.construct_ecb_ignores_ivIn]
  · rw [← Instr.of_op_mode i] at h ⊢
    exact execWith_ignores_newPorts hop h

end Sys2Proof.Machine

/-! The functional units (40_units.md R120 to R132): what the chunker cuts, what padding adds and takes off, the XOR
combiner, the counter. ChunkLaws, ChunkIdempotence, PaddingRoundTrip, UnpadAcceptsExactlyPkcs7, PrepPadsOnlyUnaligned,
XorCombiner, CounterIncrement. -/

namespace Sys2Proof.Machine

variable {msg : Bytes} {i n : Nat}

/-! ### The chunker -/

theorem mem_chunk {b : Bytes} : b ∈ chunk msg ↔ ∃ i, i < blockCount msg.length ∧ messageBlock msg i = b := by
  simp [chunk, messageBlock]

/-- The first `n` blocks are the first `16*n` bytes, in order (R120). -/
theorem flatten_map_messageBlock (msg : Bytes) (n : Nat) :
    ((List.range n).map (messageBlock msg)).flatten = msg.take (16 * n) := by
  induction n with
  | zero => rfl
  | succ n ih =>
    rw [List.range_succ, List.map_append, List.flatten_append, ih, Nat.mul_succ, List.take_add]
    simp [messageBlock]

theorem chunk_flatten (msg : Bytes) : (chunk msg).flatten = msg := by
  refine (flatten_map_messageBlock msg _).trans (List.take_of_length_le ?_)
  unfold blockCount
  omega

/-- The blocks of a message are the full ones and the last one (R121). -/
theorem chunk_eq_concat (h : blockCount msg.length = n + 1) :
    chunk msg = (List.range n).map (messageBlock msg) ++ [messageBlock msg n] := by
  have hmap : chunk msg = (List.range (blockCount msg.length)).map (messageBlock msg) := rfl
  rw [hmap, h, List.range_succ, List.map_append, List.map_singleton]

/-- Every block of an aligned message is full, the last one too (R122). -/
theorem messageBlock_length_of_aligned (h16 : msg.length % 16 = 0) (h : i < blockCount msg.length) :
    (messageBlock msg i).length = 16 := by
  have := lt_blockCount.1 h
  simp only [messageBlock, List.length_take, List.length_drop]
  omega

/-- Settles O26: the blocks before the last are full, and the last one is what they leave. -/
theorem chunkLaws : Obligations.ChunkLaws := by
  intro buf hne
  have hpos : 0 < blockCount buf.length := blockCount_pos (by simpa using hne)
  obtain ⟨n, hn⟩ := Nat.exists_eq_add_of_lt hpos
  rw [Nat.zero_add] at hn
  refine ⟨chunk_flatten buf, chunk_length buf, fun i b hi hb => ?_, ?_, fun b hb => ?_⟩
  · rw [chunk_length] at hi
    rw [chunk_block (by omega)] at hb
    rw [← Option.some.inj hb, messageBlock_length hi]
  · have hlast := messageBlock_last_length hn
    have hpos := messageBlock_length_ne_zero (msg := buf) (i := n) (by omega)
    have hle := messageBlock_length_le buf n
    refine ⟨messageBlock buf n, by rw [chunk_eq_concat hn, List.getLast?_concat], ?_, by omega, hle, by omega⟩
    rw [chunk_length, hn]
    omega
  · obtain ⟨i, hi, rfl⟩ := mem_chunk.1 hb
    exact fun hempty => messageBlock_length_ne_zero hi (by rw [hempty, List.length_nil])

/-- Settles O27: an aligned message has `L/16` blocks, and none of them is short. -/
theorem chunkIdempotence : Obligations.ChunkIdempotence := by
  intro buf k hlen
  refine ⟨?_, fun b hb => ?_, chunk_flatten buf⟩
  · rw [chunk_length, hlen, blockCount]
    omega
  · obtain ⟨i, hi, rfl⟩ := mem_chunk.1 hb
    exact messageBlock_length_of_aligned (by omega) hi

/-! ### Padding -/

/-- `UNPAD` takes off `n` bytes of value `n` (R124). -/
theorem unpad_append_rep {x : Bytes} (h1 : 1 ≤ n) (h16 : n ≤ 16) (hlen : x.length + n = 16) :
    unpad (x ++ rep (BitVec.ofNat 8 n) n) = .ok x := by
  have hvalue : (BitVec.ofNat 8 n).toNat = n := by rw [BitVec.toNat_ofNat]; omega
  have hx : 16 - n = x.length := by omega
  have hlast : (x ++ rep (BitVec.ofNat 8 n) n)[15]? = some (BitVec.ofNat 8 n) := by
    rw [List.getElem?_append_right (by omega), rep, List.getElem?_replicate, if_pos (by omega)]
  have htail : ((x ++ rep (BitVec.ofNat 8 n) n).drop (16 - n)).all (· == BitVec.ofNat 8 n) = true := by
    rw [hx, List.drop_left]
    simp [rep]
  rw [unpad, if_neg (by simp [hlen]), hlast]
  simp only [hvalue, htail, if_true]
  rw [if_neg (by omega), hx, List.take_left]

/-- Everything `UNPAD` can do (R124): reject the block, or take off its last `n` bytes, which all have value `n`. -/
theorem unpad_cases (b : Bytes) : unpad b = .error .paddingError ∨ ∃ n, 1 ≤ n ∧ n ≤ 16 ∧ b.length = 16 ∧
    unpad b = .ok (b.take (16 - n)) ∧ b.drop (16 - n) = rep (BitVec.ofNat 8 n) n := by
  unfold unpad
  split
  · exact .inl rfl
  · next hlen =>
    split
    · exact .inl rfl
    · next v _ =>
      split
      · exact .inl rfl
      · next hrange =>
        split
        · next htail =>
          refine .inr ⟨v.toNat, by omega, by omega, by omega, rfl, ?_⟩
          rw [BitVec.ofNat_toNat, BitVec.setWidth_eq]
          refine List.eq_replicate_iff.2 ⟨by rw [List.length_drop]; omega, fun w hw => ?_⟩
          exact eq_of_beq (List.all_eq_true.1 htail w hw)
        · exact .inl rfl

/-- Settles O29: `UNPAD` takes off nothing but a tail of `n` bytes of value `n`, and any such tail. -/
theorem unpadAcceptsExactlyPkcs7 : Obligations.UnpadAcceptsExactlyPkcs7 := by
  refine ⟨fun b x => ⟨fun h => ?_, ?_⟩, fun b => ?_⟩
  · rcases unpad_cases b with herror | ⟨n, h1, h16, hlen, hok, htail⟩
    · cases herror.symm.trans h
    · cases hok.symm.trans h
      exact ⟨hlen, n, h1, h16, by rw [← htail, List.take_append_drop]⟩
  · rintro ⟨hlen, n, h1, h16, rfl⟩
    exact unpad_append_rep h1 h16 (by simpa using hlen)
  · rcases unpad_cases b with herror | ⟨n, -, -, -, hok, -⟩
    · exact .inr herror
    · exact .inl ⟨_, hok⟩

/-- Settles O28: what `PAD` adds is what `UNPAD` takes off; a block of padding alone unpads to nothing, which `PAD`
refuses. -/
theorem paddingRoundTrip : Obligations.PaddingRoundTrip := by
  refine ⟨fun x h0 h16 => ⟨_, pad_ok (by omega) h16, ?_⟩, rep 16 16, ?_, rfl⟩
  · exact unpad_append_rep (by omega) (by omega) (by omega)
  · exact unpad_append_rep (x := []) (n := 16) (by omega) (by omega) rfl

/-! ### The preprocess of ECB and CBC encryption -/

/-- `PREP` leaves a full block as it is (R129). -/
theorem padShort_of_full {b : Bytes} (h : b.length = 16) : padShort b = b := if_neg (by omega)

/-- `PREP` adds to a message what it adds to its last block (R129). -/
theorem flatten_map_padShort_chunk (h : blockCount msg.length = n + 1) :
    ((chunk msg).map padShort).flatten = msg.take (16 * n) ++ padShort (messageBlock msg n) := by
  have hfull : ((List.range n).map (messageBlock msg)).map padShort = (List.range n).map (messageBlock msg) := by
    rw [List.map_map]
    refine List.map_congr_left fun i hi => padShort_of_full (messageBlock_length ?_)
    have := List.mem_range.1 hi
    omega
  rw [chunk_eq_concat h, List.map_append, hfull, List.flatten_append, flatten_map_messageBlock]
  simp

/-- Settles O30: the last block is the only one that can be short, and it is short where the message is unaligned. -/
theorem prepPadsOnlyUnaligned : Obligations.PrepPadsOnlyUnaligned := by
  refine ⟨rfl, fun msg hne => ⟨_, prep_eq msg hne, ?_, fun b hb => ?_, ?_⟩⟩
  · rw [List.length_map, chunk_length, blockCount]
  · obtain ⟨c, hc, rfl⟩ := List.mem_map.1 hb
    obtain ⟨i, -, rfl⟩ := mem_chunk.1 hc
    exact padShort_length (messageBlock_length_le msg i)
  obtain ⟨n, hn⟩ := Nat.exists_eq_add_of_lt (blockCount_pos (len := msg.length) (by simpa using hne))
  rw [Nat.zero_add] at hn
  have hmsg : msg.take (16 * n) ++ messageBlock msg n = msg := by
    rw [← flatten_map_messageBlock, ← List.flatten_concat, ← chunk_eq_concat hn, chunk_flatten]
  have hlast := messageBlock_last_length hn
  have hle := messageBlock_length_le msg n
  have hpos := messageBlock_length_ne_zero (msg := msg) (i := n) (by omega)
  rw [flatten_map_padShort_chunk hn]
  refine ⟨fun h16 => ?_, fun h16 => ?_⟩
  · rw [padShort_of_full (by omega), hmsg]
  · have hshort : (messageBlock msg n).length = msg.length % 16 := by omega
    rw [padShort, if_pos (by omega), hshort, ← List.append_assoc, hmsg]

/-! ### The XOR combiner -/

/-- `XOR` succeeds exactly on equal non-zero lengths, with the lanes as its value (R126). -/
theorem xor_eq_ok {a b c : Bytes} :
    xor a b = .ok c ↔ a.length = b.length ∧ a.length ≠ 0 ∧ xorBytes a b = c := by
  constructor
  · intro h
    by_cases hdom : a.length = b.length ∧ a.length ≠ 0
    · rw [xor_ok hdom.1 hdom.2] at h
      exact ⟨hdom.1, hdom.2, Except.ok.inj h⟩
    · rw [xor_error (by omega)] at h
      cases h
  · rintro ⟨hlen, h0, rfl⟩
    exact xor_ok hlen h0

theorem xorBytes_comm (a b : Bytes) : xorBytes a b = xorBytes b a := by
  rw [xorBytes, List.zipWith_comm]
  simp only [BitVec.xor_comm]
  rfl

theorem xorBytes_self (a : Bytes) : xorBytes a a = rep 0 a.length := by
  rw [xorBytes, List.zipWith_self, rep, List.eq_replicate_iff]
  simp

/-- Lane `k` (R126). -/
theorem xorBytes_getElem? {a b : Bytes} {k : Nat} {x y : Byte} (hx : a[k]? = some x) (hy : b[k]? = some y) :
    (xorBytes a b)[k]? = some (x ^^^ y) := by
  rw [xorBytes, List.getElem?_zipWith, hx, hy]

/-- The combiner undoes itself (R126). -/
theorem xorBytes_xorBytes_cancel {a b : Bytes} (h : a.length = b.length) : xorBytes (xorBytes a b) b = a := by
  apply List.ext_getElem
  · simp [h]
  · intro k h1 h2
    simp [xorBytes]

/-- Settles O31: the laws of the lanes, on the lengths that `XOR` accepts. -/
theorem xorCombiner : Obligations.XorCombiner := by
  refine ⟨fun a b => ?_, fun a b => ?_, fun a b z h => ?_⟩
  · simp only [xor_eq_ok]
    constructor
    · rintro ⟨c, hlen, h0, -⟩
      exact ⟨hlen, h0⟩
    · rintro ⟨hlen, h0⟩
      exact ⟨_, hlen, h0, rfl⟩
  · by_cases hdom : a.length = b.length ∧ a.length ≠ 0
    · exact .inl ⟨_, xor_ok hdom.1 hdom.2⟩
    · exact .inr (xor_error (by omega))
  · obtain ⟨hlen, h0, rfl⟩ := xor_eq_ok.1 h
    have hz : (xorBytes a b).length = a.length := by rw [xorBytes_length, hlen, Nat.min_self]
    refine ⟨hz, fun k x y => xorBytes_getElem?, ?_, ?_, ?_⟩
    · exact xor_eq_ok.2 ⟨hlen.symm, by omega, xorBytes_comm b a⟩
    · exact xor_eq_ok.2 ⟨by omega, by omega, xorBytes_xorBytes_cancel hlen⟩
    · exact xor_eq_ok.2 ⟨rfl, h0, xorBytes_self a⟩

/-! ### The counter -/

/-- Settles O32: the byte-wise increment is plus one on the value, and its iterate is the counter block. -/
theorem counterIncrement : Obligations.CounterIncrement := by
  intro b hlen
  refine ⟨by rw [inc128_length, hlen], ?_, fun i => inc128_iterate hlen i⟩
  rw [intOf_inc128, hlen, show 256 ^ 16 = 2 ^ 128 by norm_num]

end Sys2Proof.Machine

/-! The primitive (40_units.md R131): what a command sends to it, and that a command's outcome depends on
the answers alone. PrimitiveSeesOnlyBlocks, PrimitiveDirection. -/

namespace Sys2Proof.Machine

variable {p q : Primitive} {op : Op} {m : Mode} {e : Engine} {msg : Bytes} {s u : State} {D : List Nat} {i : Nat}

/-! ### What a block step sends, and what it makes of the answer -/

/-- The block that a block step sends to the primitive, with feedback `fb` and input block `x` (R172, R192, R212, R232,
R252). -/
def requestBlock (op : Op) (m : Mode) (fb x : Bytes) : Bytes :=
  match op, m with
  | _, .ecb | .dec, .cbc => x
  | _, .cbc => xorBytes fb x
  | _, .cfb | _, .ofb | _, .ctr => fb

/-- The commands that unpad ask for `D`, the others for `E` (R131). -/
theorem primitiveAnswer_eq (p : Primitive) (op : Op) (m : Mode) (K fb x : Bytes) :
    primitiveAnswer p op m K fb x =
      if unpads op m then p.dec K (requestBlock op m fb x) else p.enc K (requestBlock op m fb x) := by
  cases op <;> cases m <;> rfl

/-- The output block and the next feedback of a block step, from the answer `ks` of the primitive. -/
def stepOfAnswer (op : Op) (m : Mode) (fb x : Bytes) (ks : Block) : Bytes × Bytes :=
  match op, m with
  | _, .ecb => (ks.toList, fb)
  | .dec, .cbc => (xorBytes fb ks.toList, x)
  | _, .cbc => (ks.toList, ks.toList)
  | .dec, .cfb => (xorBytes x (trunc ks x.length), x)
  | _, .cfb => (xorBytes x (trunc ks x.length), xorBytes x (trunc ks x.length))
  | _, .ofb => (xorBytes x (trunc ks x.length), ks.toList)
  | _, .ctr => (xorBytes x (trunc ks x.length), inc128 fb)

theorem cmdStep_eq_stepOfAnswer (p : Primitive) (op : Op) (m : Mode) (K fb x : Bytes) :
    cmdStep p op m K fb x = stepOfAnswer op m fb x (primitiveAnswer p op m K fb x) := by
  cases op <;> cases m <;> rfl

/-! ### Two primitives that give a command the same answers -/

/-- `q` answers every request that a command makes with `p` as `p` does. -/
def SameAnswers (p q : Primitive) (op : Op) (m : Mode) (e : Engine) (msg : Bytes) : Prop :=
  ∀ i, i < blockCount msg.length →
    primitiveAnswer p op m e.key (feedbackAt p op m e msg i) (inputBlock op m msg i) =
      primitiveAnswer q op m e.key (feedbackAt p op m e msg i) (inputBlock op m msg i)

theorem SameAnswers.cmdStep_eq (h : SameAnswers p q op m e msg) (hi : i < blockCount msg.length) :
    cmdStep p op m e.key (feedbackAt p op m e msg i) (inputBlock op m msg i) =
      cmdStep q op m e.key (feedbackAt p op m e msg i) (inputBlock op m msg i) := by
  rw [cmdStep_eq_stepOfAnswer, cmdStep_eq_stepOfAnswer, h i hi]

theorem SameAnswers.feedbackAt_eq (h : SameAnswers p q op m e msg) (hi : i < blockCount msg.length) :
    feedbackAt p op m e msg i = feedbackAt q op m e msg i := by
  induction i with
  | zero => rw [feedbackAt_zero, feedbackAt_zero]
  | succ j ih =>
    have hj : j < blockCount msg.length := by omega
    rw [feedbackAt_succ hj, feedbackAt_succ hj, h.cmdStep_eq hj, ih hj]

theorem SameAnswers.rawBlock_eq (h : SameAnswers p q op m e msg) (hi : i < blockCount msg.length) :
    rawBlock p op m e msg i = rawBlock q op m e msg i := by
  rw [rawBlock, rawBlock, h.cmdStep_eq hi, h.feedbackAt_eq hi]

theorem SameAnswers.outBlocks_eq (h : SameAnswers p q op m e msg) :
    outBlocks p op m e msg = outBlocks q op m e msg := by
  apply List.ext_getElem?
  intro i
  by_cases hi : i < blockCount msg.length
  · rw [outBlocks_get? hi, outBlocks_get? hi, h.rawBlock_eq hi]
  · have hout : ∀ r, (outBlocks r op m e msg).length ≤ i := fun r => by rw [outBlocks_length]; omega
    rw [List.getElem?_eq_none (hout p), List.getElem?_eq_none (hout q)]

theorem SameAnswers.lastTag_eq (h : SameAnswers p q op m e msg) (hpos : 0 < blockCount msg.length) :
    lastTag p op m e msg = lastTag q op m e msg := by
  rw [lastTag, lastTag, h.rawBlock_eq (by omega)]

/-- The blocks done with `p` are those done with `q`. -/
theorem BlocksDone.of_sameAnswers (hdone : BlocksDone p op m e s D u) (h : SameAnswers p q op m e s.din)
    (hpos : 0 < blockCount s.din.length) : BlocksDone q op m e s D u where
  frame := hdone.frame
  obufWf := hdone.obufWf
  obuf := by rw [← h.outBlocks_eq]; exact hdone.obuf
  utag := by rw [← h.lastTag_eq hpos]; exact hdone.utag

/-- A command ends alike with two primitives that give it the same answers; one that fails its checks asks for none. -/
theorem execWith_congr (hop : op ≠ .new)
    (h : messageCheck op m s.din.length = none → SameAnswers p q op m (s.engine m) s.din) :
    execWith p (Instr.of op m) s = execWith q (Instr.of op m) s := by
  cases hv : (s.context m).valid with
  | false => rw [execWith_noEngine hop hv, execWith_noEngine hop hv]
  | true =>
    cases hc : messageCheck op m s.din.length with
    | some x => rw [execWith_checked hop hv hc, execWith_checked hop hv hc]
    | none =>
      obtain ⟨u, hdone, hexec⟩ := execWith_blocksDone (p := p) hop hv hc
      obtain ⟨u', hdone', hexec'⟩ := execWith_blocksDone (p := q) hop hv hc
      have hdoneq := hdone.of_sameAnswers (h hc) (blockCount_pos_of_check hc)
      rw [hexec, hexec', hdoneq.final_eq hdone']

/-- `NEW` asks the primitive for nothing (R150, R314). -/
theorem execWith_new_congr {i : Instr} (hop : i.op = .new) : execWith p i s = execWith q i s := by
  rw [← Instr.of_op_mode i, hop, execWith_new, execWith_new]

/-! ### The direction of each command -/

theorem sameAnswers_of_dec_eq (hu : unpads op m = true) (h : p.dec = q.dec) : SameAnswers p q op m e msg := by
  intro i _
  rw [primitiveAnswer_eq, primitiveAnswer_eq, if_pos hu, if_pos hu, h]

theorem sameAnswers_of_enc_eq (hu : unpads op m = false) (h : p.enc = q.enc) : SameAnswers p q op m e msg := by
  intro i _
  rw [primitiveAnswer_eq, primitiveAnswer_eq, hu, if_neg Bool.false_ne_true, if_neg Bool.false_ne_true, h]

/-- The commands that unpad are `DEC.ECB` and `DEC.CBC`. -/
theorem unpads_eq_false {i : Instr} (hecb : i ≠ .decEcb) (hcbc : i ≠ .decCbc) : unpads i.op i.mode = false := by
  cases i
  case decEcb => exact absurd rfl hecb
  case decCbc => exact absurd rfl hcbc
  all_goals rfl

/-- Settles O35: the two commands that unpad send their requests to `D`, every other `ENC` and `DEC` to `E`. -/
theorem primitiveDirection : Obligations.PrimitiveDirection := by
  refine fun p q i s => ⟨execWith_new_congr, ?_, fun hecb hcbc henc => ?_⟩
  · rintro (rfl | rfl) hdec
    · exact execWith_congr (op := .dec) (m := .ecb) nofun fun _ => sameAnswers_of_dec_eq rfl hdec
    · exact execWith_congr (op := .dec) (m := .cbc) nofun fun _ => sameAnswers_of_dec_eq rfl hdec
  · by_cases hop : i.op = .new
    · exact execWith_new_congr hop
    · rw [← Instr.of_op_mode i]
      exact execWith_congr hop fun _ => sameAnswers_of_enc_eq (unpads_eq_false hecb hcbc) henc

/-! ### The size of what is sent -/

/-- The length check of `DEC.ECB` and `DEC.CBC` lets only aligned messages pass (R130, R275). -/
theorem aligned_of_ctCheck {n : Nat} (h : ctCheck n = none) : n % 16 = 0 := by
  by_contra hn
  rw [ctCheck, if_neg (by omega), if_pos (.inr hn)] at h
  cases h

/-- The blocks of ECB and CBC have 16 bytes: `ENC` pads a short one (R129), and no other message passes the check of
`DEC` (R130). -/
theorem inputBlock_length (hm : modeUnpads m = true) (hc : messageCheck op m msg.length = none)
    (hi : i < blockCount msg.length) : (inputBlock op m msg i).length = 16 := by
  by_cases hop : op = .dec
  · subst hop
    rw [messageCheck_dec, decCheck, if_pos hm] at hc
    rw [inputBlock, if_neg (by simp [pads])]
    exact messageBlock_length_of_aligned (aligned_of_ctCheck hc) hi
  · rw [inputBlock, if_pos (by simp [pads, hop, hm])]
    exact padShort_length (messageBlock_length_le msg i)

/-- Where a mode reads feedback, every value it reads has 16 bytes (R23). -/
theorem feedbackAt_length (hm : m ≠ .ecb) (hiv : e.iv.length = 16) (hi : i < blockCount msg.length) :
    (feedbackAt p op m e msg i).length = 16 := by
  induction i with
  | zero => rw [feedbackAt_zero, hiv]
  | succ j ih =>
    have hj : j < blockCount msg.length := by omega
    have hfull := messageBlock_length hi
    cases m with
    | ecb => exact absurd rfl hm
    | cbc => exact feedbackAt_cbc_length hiv hi
    | cfb =>
      rw [feedbackAt_succ hj]
      cases op <;> simp [cmdStep, cfbEncStep, cfbDecStep, inputBlock, pads, modeUnpads, hfull]
    | ofb =>
      rw [feedbackAt_succ hj]
      cases op <;> exact Vector.length_toList
    | ctr =>
      rw [feedbackAt_succ hj]
      cases op <;> exact (inc128_length _).trans (ih hj)

/-- Every block sent to the primitive has 16 bytes (R131). -/
theorem requestBlock_length (hiv : m ≠ .ecb → e.iv.length = 16) (hc : messageCheck op m msg.length = none)
    (hi : i < blockCount msg.length) :
    (requestBlock op m (feedbackAt p op m e msg i) (inputBlock op m msg i)).length = 16 := by
  have hfb : m ≠ .ecb → (feedbackAt p op m e msg i).length = 16 := fun hm => feedbackAt_length hm (hiv hm) hi
  have hx : modeUnpads m = true → (inputBlock op m msg i).length = 16 := fun hm => inputBlock_length hm hc hi
  cases m with
  | ecb => cases op <;> exact hx rfl
  | cbc =>
    cases op with
    | dec => exact hx rfl
    | new | enc => rw [requestBlock, xorBytes_length, hfb nofun, hx rfl, Nat.min_self]; exact nofun
  | cfb | ofb | ctr => cases op <;> exact hfb nofun

/-- The key handed to the primitive has 16, 24 or 32 bytes (R21, R131). -/
theorem State.Inv.primKey_length (h : s.Inv) (m : Mode) :
    (s.context m).primKey.length = 16 ∨ (s.context m).primKey.length = 24 ∨ (s.context m).primKey.length = 32 := by
  rw [KeyContext.primKey, List.length_take, h.keyLength m, Nat.min_self]
  cases (s.context m).klen
  · exact .inl rfl
  · exact .inr (.inl rfl)
  · exact .inr (.inr rfl)

/-- Settles O34: every request of a command has 16 bytes under a key of 16, 24 or 32, so the two primitives answer it
alike. -/
theorem primitiveSeesOnlyBlocks : Obligations.PrimitiveSeesOnlyBlocks := by
  intro p q hagree i s hinv
  by_cases hop : i.op = .new
  · exact execWith_new_congr hop
  rw [← Instr.of_op_mode i]
  refine execWith_congr hop fun hc j hj => ?_
  obtain ⟨henc, hdec⟩ := hagree _ _ (hinv.primKey_length i.mode)
    (requestBlock_length (p := p) (e := s.engine i.mode) State.engine_iv_length hc hj)
  rw [primitiveAnswer_eq, primitiveAnswer_eq]
  exact ite_congr rfl (fun _ => hdec) fun _ => henc

end Sys2Proof.Machine

/-! Engine construction (41_construct.md R150 to R158): the whole next state of `NEW.<m>`, by its key and its IV operand.
NewEcbInstallsEngine, NewInstallsEngineWithIv, NewRejectsBadKeyFirst, NewRejectsBadIv. -/

namespace Sys2Proof.Machine

variable {m : Mode} {s : State} {kl : KeyLen} {iv : Block} {x : Option Bytes}

/-! ### The IV operand -/

/-- A mode that has an IV takes a 16-byte IVIN as it is (R150). -/
theorem ivOperand_toList (hm : m ≠ .ecb) (iv : Block) : ivOperand m (some iv.toList) = .given iv := by
  rcases ivOperand_cases m (some iv.toList) with ⟨hecb, -⟩ | ⟨-, b, hb, ho⟩ | ⟨-, hlen, -⟩
  · exact absurd hecb hm
  · obtain rfl := Vector.toList_inj.1 (Option.some.inj hb)
    exact ho
  · exact absurd (congrArg some iv.length_toList) hlen

/-- A mode that has an IV rejects an IVIN that is absent or not 16 bytes (R150). -/
theorem ivOperand_eq_wrong (hm : m ≠ .ecb) (h : ∀ b, x = some b → b.length ≠ 16) : ivOperand m x = .wrong := by
  rcases ivOperand_cases m x with ⟨hecb, -⟩ | ⟨-, b, hb, -⟩ | ⟨-, -, ho⟩
  · exact absurd hecb hm
  · exact absurd b.length_toList (h _ hb)
  · exact ho

/-! ### The way a construction ends -/

/-- A key that is not 16, 24 or 32 bytes ends `NEW.<m>` before the IV is looked at (R156, R157). -/
theorem State.construct_badKey (h16 : s.keyIn.length ≠ 16) (h24 : s.keyIn.length ≠ 24) (h32 : s.keyIn.length ≠ 32) :
    s.construct m = (s.start.invalidate m).raise .invalidKeyLength := by
  rcases State.construct_cases m s with ⟨h, -⟩ | ⟨kl, hlen, -⟩
  · exact h
  · cases kl with
    | k16 => exact absurd hlen h16
    | k24 => exact absurd hlen h24
    | k32 => exact absurd hlen h32

/-- With a valid key `NEW.ECB` installs its context, whatever IVIN carries (R151, R158). -/
theorem State.construct_ecb (hkey : s.keyIn.length = kl.bytes) :
    s.construct .ecb = (s.start.install .ecb kl).succeed 0 := by
  simp [State.construct, hkey, ivOperand]

/-- With a valid key and a 16-byte IV a mode that has one installs both (R152 to R155, R158). -/
theorem State.construct_given (hm : m ≠ .ecb) (hkey : s.keyIn.length = kl.bytes) (hiv : s.ivIn = some iv.toList) :
    s.construct m = ((s.start.install m kl).withIv m iv).succeed 0 := by
  simp [State.construct, hkey, hiv, ivOperand_toList hm]

/-- With a valid key but no 16-byte IV a mode that has one fails (R157, R273). -/
theorem State.construct_badIv (hm : m ≠ .ecb) (hkey : s.keyIn.length = kl.bytes)
    (hiv : ∀ b, s.ivIn = some b → b.length ≠ 16) :
    s.construct m = (s.start.invalidate m).raise .invalidIVLength := by
  simp [State.construct, hkey, ivOperand_eq_wrong hm hiv]

/-! ### The command -/

/-- `NEW.<m>` always answers, with the state its construction ends in (R150). -/
theorem exec_new_of_construct {t : State} (h : s.construct m = t) : exec (Instr.of .new m) s = .next t := by
  rw [exec_eq_execWith, execWith_new, h]

/-- Settles O10: a valid key is all that `NEW.ECB` needs. -/
theorem newEcbInstallsEngine : Obligations.NewEcbInstallsEngine := fun _ _ hkey =>
  exec_new_of_construct (State.construct_ecb hkey)

/-- Settles O11: the construction with a valid key and IV, in each of the four modes that have an IV. -/
theorem newInstallsEngineWithIv : Obligations.NewInstallsEngineWithIv := by
  intro s kl iv hkey hiv
  have hnew (m : Mode) (hm : m ≠ .ecb) := exec_new_of_construct (State.construct_given hm hkey hiv)
  exact ⟨hnew .cbc nofun, hnew .cfb nofun, hnew .ofb nofun, hnew .ctr nofun⟩

/-- Settles O12: the construction with a bad key, in each of the five modes. -/
theorem newRejectsBadKeyFirst : Obligations.NewRejectsBadKeyFirst := by
  intro s h16 h24 h32
  have hnew (m : Mode) := exec_new_of_construct (State.construct_badKey (m := m) h16 h24 h32)
  exact ⟨hnew .ecb, hnew .cbc, hnew .cfb, hnew .ofb, hnew .ctr⟩

/-- Settles O13: the construction with a valid key and a bad IV, in each of the four modes that have an IV. -/
theorem newRejectsBadIv : Obligations.NewRejectsBadIv := by
  intro s kl hkey hiv
  have hnew (m : Mode) (hm : m ≠ .ecb) := exec_new_of_construct (State.construct_badIv hm hkey hiv)
  exact ⟨hnew .cbc nofun, hnew .cfb nofun, hnew .ofb nofun, hnew .ctr nofun⟩

end Sys2Proof.Machine


/-! SUPPORT. The two modes whose blocks all have 16 bytes, ECB and CBC (40_units.md R125, R129): their blocks read back from
the buffers, what `PREP` followed by `UNPAD_OR_RAW` makes of a message, and how their `ENC` and `DEC` complete. -/

namespace Sys2Proof.Machine

variable {p : Primitive} {m : Mode} {e : Engine} {msg b x : Bytes} {bs : List Bytes} {s t : State} {n i : Nat}

/-! ### Lists of full blocks -/

/-- Full blocks take 16 bytes each. -/
theorem flatten_length_of_full (hfull : ∀ b ∈ bs, b.length = 16) : bs.flatten.length = 16 * bs.length := by
  induction bs with
  | nil => rfl
  | cons c bs ih =>
    obtain ⟨hc, hbs⟩ := List.forall_mem_cons.1 hfull
    rw [List.flatten_cons, List.length_append, hc, ih hbs, List.length_cons]
    omega

/-- Full blocks, concatenated, are cut where they were joined (R120). -/
theorem messageBlock_flatten (hfull : ∀ b ∈ bs, b.length = 16) (hb : bs[i]? = some b) :
    messageBlock bs.flatten i = b := by
  induction bs generalizing i with
  | nil => cases hb
  | cons c bs ih =>
    obtain ⟨hc, hbs⟩ := List.forall_mem_cons.1 hfull
    cases i with
    | zero =>
      obtain rfl : c = b := Option.some.inj hb
      rw [messageBlock, List.flatten_cons, Nat.mul_zero, List.drop_zero, List.take_left' hc]
    | succ i =>
      rw [← ih hbs (by simpa using hb), messageBlock, messageBlock, List.flatten_cons, Nat.mul_succ, Nat.add_comm,
        ← List.drop_drop, List.drop_left' hc]

/-- The chunker undoes the concatenation of full blocks (R122). -/
theorem chunk_flatten_of_full (hfull : ∀ b ∈ bs, b.length = 16) : chunk bs.flatten = bs := by
  have hcount : blockCount bs.flatten.length = bs.length := by
    rw [flatten_length_of_full hfull, blockCount]; omega
  refine List.ext_getElem (by rw [chunk_length, hcount]) fun i hi hi' => ?_
  rw [List.getElem_eq_iff, chunk_block (by rwa [chunk_length] at hi),
    messageBlock_flatten hfull (List.getElem?_eq_getElem hi')]

/-! ### What `PREP` prepares -/

theorem prep_eq_prepBlocks (h : msg ≠ []) : prep msg = .ok (prepBlocks msg) := by
  rw [prep_eq msg h, prepBlocks_eq msg h]

/-- Where `PREP` succeeds, the message is not empty and these are its blocks (R129). -/
theorem prep_ok (h : prep msg = .ok bs) : msg ≠ [] ∧ bs = prepBlocks msg := by
  have hne : msg ≠ [] := by rintro rfl; cases h
  exact ⟨hne, Except.ok.inj (h.symm.trans (prep_eq_prepBlocks hne))⟩

/-- Every prepared block is full (R129). -/
theorem length_of_mem_prepBlocks (h : b ∈ prepBlocks msg) : b.length = 16 := by
  obtain ⟨i, hi⟩ := List.mem_iff_getElem?.1 h
  have hlt : i < blockCount msg.length := by
    rw [← prepBlocks_length]; exact (List.getElem?_eq_some_iff.1 hi).1
  rw [prep_block hlt] at hi
  rw [← Option.some.inj hi, padShort_length (messageBlock_length_le msg i)]

/-- The prepared blocks are the full ones and the last one, padded if it is short (R129). -/
theorem prepBlocks_eq_concat (h : blockCount msg.length = n + 1) :
    prepBlocks msg = (List.range n).map (messageBlock msg) ++ [padShort (messageBlock msg n)] := by
  have hne : msg ≠ [] := by rintro rfl; cases h
  rw [prepBlocks_eq msg hne, chunk_eq_concat h, List.map_append, List.map_map, List.map_singleton]
  refine congrArg (· ++ _) (List.map_congr_left fun i hi => padShort_of_full (messageBlock_length ?_))
  have := List.mem_range.1 hi
  omega

/-- A message is its full blocks and its last one (R121). -/
theorem take_append_messageBlock (h : blockCount msg.length = n + 1) :
    msg.take (16 * n) ++ messageBlock msg n = msg := by
  rw [← flatten_map_messageBlock, ← List.flatten_concat, ← chunk_eq_concat h, chunk_flatten]

/-! ### What `UNPAD_OR_RAW` makes of the prepared blocks -/

theorem unpadOrRaw_of_ok (h : unpad b = .ok x) : unpadOrRaw b = (x, .padded) := by
  rw [unpadOrRaw, h]

theorem unpadOrRaw_of_error {err : ErrName} (h : unpad b = .error err) : unpadOrRaw b = (b, .unpadded) := by
  rw [unpadOrRaw, h]

/-- `UNPAD` takes off at least one byte (R124). -/
theorem unpad_length_lt (h : unpad b = .ok x) : x.length < b.length := by
  rcases unpad_cases b with herror | ⟨n, h1, -, hlen, hok, -⟩
  · cases herror.symm.trans h
  · cases hok.symm.trans h
    rw [List.length_take]
    omega

/-- What `PREP` adds to a short block is what `UNPAD` takes off (R132). -/
theorem unpad_padShort (h16 : b.length < 16) : unpad (padShort b) = .ok b := by
  rw [padShort, if_pos h16, unpad_append_rep] <;> omega

@[simp] theorem unpadLast_concat (bs : List Bytes) (b : Bytes) : unpadLast (bs ++ [b]) = bs ++ [(unpadOrRaw b).1] := by
  simp [unpadLast]

theorem unpadLast_prepBlocks_flatten (h : blockCount msg.length = n + 1) :
    (unpadLast (prepBlocks msg)).flatten = msg.take (16 * n) ++ (unpadOrRaw (padShort (messageBlock msg n))).1 := by
  rw [prepBlocks_eq_concat h, unpadLast_concat, List.flatten_concat, flatten_map_messageBlock]

/-- An unaligned message comes back whole: what is taken off is the padding (R175, R196). -/
theorem unpadLast_prepBlocks_unaligned (h16 : msg.length % 16 ≠ 0) : (unpadLast (prepBlocks msg)).flatten = msg := by
  obtain ⟨n, hn⟩ := Nat.exists_eq_add_of_lt (blockCount_pos (len := msg.length) (by omega))
  rw [Nat.zero_add] at hn
  have hlast := messageBlock_last_length hn
  have hle := messageBlock_length_le msg n
  rw [unpadLast_prepBlocks_flatten hn, unpadOrRaw_of_ok (unpad_padShort (by omega)), take_append_messageBlock hn]

/-- Of an aligned message the last 16 bytes come back as `UNPAD_OR_RAW` leaves them, for nothing was added (R175, R196). -/
theorem unpadLast_prepBlocks_aligned (hne : msg ≠ []) (h16 : msg.length % 16 = 0) :
    (unpadLast (prepBlocks msg)).flatten =
      msg.take (msg.length - 16) ++ (unpadOrRaw (msg.drop (msg.length - 16))).1 := by
  obtain ⟨n, hn⟩ := Nat.exists_eq_add_of_lt (blockCount_pos (len := msg.length) (by simpa using hne))
  rw [Nat.zero_add] at hn
  have hfull := messageBlock_length_of_aligned h16 (show n < blockCount msg.length by omega)
  have hlast := messageBlock_last_length hn
  have hblock : messageBlock msg n = msg.drop (16 * n) := List.take_of_length_le (by rw [List.length_drop]; omega)
  rw [unpadLast_prepBlocks_flatten hn, padShort_of_full hfull, hblock, show 16 * n = msg.length - 16 by omega]

/-- `PREP`, then `UNPAD_OR_RAW` on the last block, gives a message back exactly if it is unaligned or `UNPAD` rejects its last
16 bytes (R175, R196). -/
theorem unpadLast_prepBlocks_eq_iff (hne : msg ≠ []) :
    (unpadLast (prepBlocks msg)).flatten = msg ↔
      msg.length % 16 ≠ 0 ∨ unpad (msg.drop (msg.length - 16)) = .error .paddingError := by
  by_cases h16 : msg.length % 16 = 0
  · rw [unpadLast_prepBlocks_aligned hne h16]
    rcases unpad_cases (msg.drop (msg.length - 16)) with herror | ⟨k, -, -, -, hok, -⟩
    · simp [unpadOrRaw_of_error herror, herror]
    · rw [unpadOrRaw_of_ok hok]
      refine iff_of_false (fun heq => ?_) (by simp [h16, hok])
      have hlt := unpad_length_lt hok
      have hlen := congrArg List.length heq
      simp only [List.length_append, List.length_take, List.length_drop] at hlen hlt
      omega
  · exact iff_of_true (unpadLast_prepBlocks_unaligned h16) (.inl h16)

/-! ### How the commands complete -/

theorem modeUnpads_iff : modeUnpads m = true ↔ m = .ecb ∨ m = .cbc := by cases m <;> decide

/-- The result port shows the output of a command that succeeds (R97). -/
theorem Completed.dout {out : Bytes} (h : Completed s t out) : t.dout = some out := by
  rw [State.dout, h.obuf, h.olen, Memory.readBytes_holding_all]

/-- Where every output block is full, block `i` stands in `OBUF` at `16*i` (R26, R66). -/
theorem Completed.readBytes_block (h : Completed s t bs.flatten) (hfull : ∀ b ∈ bs, b.length = 16)
    (hb : bs[i]? = some b) : Memory.readBytes t.obuf (16 * i) 16 = some b := by
  have hlt := (List.getElem?_eq_some_iff.1 hb).1
  have hread := Memory.readBytes_holding 16 bs.flatten (16 * i) 0 (by rw [flatten_length_of_full hfull]; omega)
  rw [Nat.zero_add, ← h.obuf] at hread
  rw [hread, ← messageBlock_flatten hfull hb, messageBlock]

/-- An `ENC` of a non-empty message on a valid context completes (R67, R287). -/
theorem execWith_enc_completed (hv : (s.context m).valid = true) (hdin : s.din ≠ []) :
    ∃ t, execWith p (Instr.of .enc m) s = .next t ∧ Completed s t (encBlocks p m (s.engine m) s.din).flatten := by
  rw [← outBlocks_enc]
  exact execWith_succeeded nofun (by rw [messageError, if_pos hv, messageCheck_enc, nonEmptyCheck_none hdin])

/-- The tag that a command that unpads leaves is that of its last raw block (R36). -/
theorem lastTag_of_rawBlocks_eq {op : Op} (h : rawBlocks p op m e msg = bs ++ [b]) :
    lastTag p op m e msg = (unpadOrRaw b).2 := by
  have hlen : blockCount msg.length = bs.length + 1 := by
    rw [← rawBlocks_length (p := p) (op := op) (m := m) (e := e), h, List.length_append, List.length_singleton]
  have hget := rawBlocks_get? (p := p) (op := op) (m := m) (e := e) (show bs.length < blockCount msg.length by omega)
  rw [h, List.getElem?_concat_length, Option.some.injEq] at hget
  rw [lastTag, hlen, Nat.add_sub_cancel, ← hget]

/-- An `ENC` or `DEC` whose checks pass completes; one that unpads leaves the tag of its last block in `UTAG` (R36). -/
theorem execWith_completed_utag {op : Op} (hop : op ≠ .new) (hv : (s.context m).valid = true)
    (hc : messageCheck op m s.din.length = none) :
    ∃ t, execWith p (Instr.of op m) s = .next t ∧ Completed s t (outBlocks p op m (s.engine m) s.din).flatten ∧
      (unpads op m = true → t.utag = lastTag p op m (s.engine m) s.din) := by
  obtain ⟨u, hdone, hexec⟩ := execWith_blocksDone (p := p) hop hv hc
  obtain ⟨v, -, -, hexec', hcompleted⟩ := execWith_completed (p := p) hop hv hc
  refine ⟨_, hexec', hcompleted, fun hu => ?_⟩
  have hpos := blockCount_pos_of_check hc
  have hutag := hdone.utag
  rw [if_pos ⟨hu, List.mem_range.2 (by omega)⟩] at hutag
  rw [Host.Outcome.next.inj (hexec'.symm.trans hexec)]
  exact hutag

/-- A `DEC` that unpads, of a non-empty aligned message on a valid context, completes: the last of its blocks goes through
`UNPAD_OR_RAW`, the tag to `UTAG` (R36, R125, R171, R191). -/
theorem execWith_dec_completed (hm : modeUnpads m = true) (hv : (s.context m).valid = true) (hdin : s.din ≠ [])
    (h16 : s.din.length % 16 = 0) :
    ∃ ts last t, rawDecBlocks p m (s.engine m) s.din = ts ++ [last] ∧ execWith p (Instr.of .dec m) s = .next t ∧
      t.utag = (unpadOrRaw last).2 ∧ Completed s t (ts ++ [(unpadOrRaw last).1]).flatten := by
  have hc : messageCheck .dec m s.din.length = none := by
    rw [messageCheck_dec, decCheck, if_pos hm, ctCheck_none hdin h16]
  have hpos := blockCount_pos_of_check hc
  obtain ⟨t, hexec, hcompleted, hutag⟩ := execWith_completed_utag (p := p) (op := .dec) nofun hv hc
  rcases List.eq_nil_or_concat' (rawDecBlocks p m (s.engine m) s.din) with hnil | ⟨ts, last, hraw⟩
  · have hlen := congrArg List.length hnil
    rw [← rawBlocks_dec, rawBlocks_length, List.length_nil] at hlen
    omega
  · refine ⟨ts, last, t, hraw, hexec, ?_, ?_⟩
    · rw [hutag hm, lastTag_of_rawBlocks_eq ((rawBlocks_dec ..).trans hraw)]
    · rw [← unpadLast_concat, ← hraw]
      rwa [outBlocks_dec, decBlocks, if_pos hm] at hcompleted

/-! ### Lengths -/

/-- Every raw output block of ECB and CBC has 16 bytes (R170, R171, R190, R191). -/
theorem length_of_mem_rawBlocks {op : Op} (hm : modeUnpads m = true) (hiv : m ≠ .ecb → e.iv.length = 16)
    (h : b ∈ rawBlocks p op m e msg) : b.length = 16 := by
  obtain ⟨i, hi⟩ := List.mem_iff_getElem?.1 h
  have hlt : i < blockCount msg.length := by simpa using (List.getElem?_eq_some_iff.1 hi).1
  rw [rawBlocks_get? hlt] at hi
  rw [← Option.some.inj hi, rawBlock_length (fun hcbc => hiv (by simp [hcbc])) hlt, if_pos hm]

theorem length_of_mem_encBlocks (hm : modeUnpads m = true) (hiv : m ≠ .ecb → e.iv.length = 16)
    (h : b ∈ encBlocks p m e msg) : b.length = 16 := by
  rw [← outBlocks_enc] at h
  exact length_of_mem_rawBlocks hm hiv h

theorem encBlocks_flatten_length (hm : modeUnpads m = true) (hiv : m ≠ .ecb → e.iv.length = 16) :
    (encBlocks p m e msg).flatten.length = 16 * blockCount msg.length := by
  rw [flatten_length_of_full fun b hb => length_of_mem_encBlocks hm hiv hb, ← outBlocks_enc, outBlocks_length]

end Sys2Proof.Machine

/-! The ECB engine (42_ecb.md R170 to R175), and what CBC shares with it. EncEcbResult, DecEcbResult, EcbCbcLengths,
EcbDeterminism, EcbRoundTripIff. -/

namespace Sys2Proof.Machine

variable {p : Primitive} {m : Mode} {e : Engine} {msg b : Bytes} {bs : List Bytes} {s t : State} {i : Nat}

/-! ### The results -/

/-- Settles O15: the block step of ECB hands nothing on, so its chain is a map. -/
theorem encEcbResult : Obligations.EncEcbResult := by
  intro s hv hdin
  rw [exec_eq_execWith]
  obtain ⟨t, hexec, hcompleted⟩ := execWith_enc_completed (p := Config.primitive) (m := .ecb) hv hdin
  refine ⟨prepBlocks s.din, t, prep_eq_prepBlocks hdin, hexec, ?_, hcompleted⟩
  rw [hcompleted.olen, encBlocks_flatten_length rfl State.engine_iv_length, prepBlocks_length]

/-- Settles O16: the raw blocks of `DEC.ECB` are `D` of each block of the message. -/
theorem decEcbResult : Obligations.DecEcbResult := by
  intro s hv hdin h16
  rw [exec_eq_execWith]
  exact execWith_dec_completed (p := Config.primitive) (m := .ecb) rfl hv hdin h16

/-! ### Lengths -/

/-- The output of a `DEC` that unpads is at most 16 bytes shorter than its message (R173). -/
theorem unpadded_flatten_length {ts : List Bytes} {last : Bytes} (hm : modeUnpads m = true)
    (hiv : m ≠ .ecb → e.iv.length = 16) (h16 : msg.length % 16 = 0)
    (hraw : rawDecBlocks p m e msg = ts ++ [last]) :
    msg.length - 16 ≤ (ts ++ [(unpadOrRaw last).1]).flatten.length ∧
      (ts ++ [(unpadOrRaw last).1]).flatten.length ≤ msg.length := by
  rw [← rawBlocks_dec] at hraw
  have hfull : ∀ b ∈ ts ++ [last], b.length = 16 := fun b hb => length_of_mem_rawBlocks hm hiv (hraw ▸ hb)
  obtain ⟨hts, hlast⟩ := List.forall_mem_append.1 hfull
  have hle := unpadOrRaw_length_le last
  rw [hlast last (List.mem_singleton_self last)] at hle
  have hlen := congrArg List.length hraw
  rw [rawBlocks_length, blockCount, List.length_append, List.length_singleton] at hlen
  rw [List.flatten_concat, List.length_append, flatten_length_of_full hts]
  omega

/-- Settles O36: `ENC` answers full blocks only, and `DEC` takes at most its last block off. -/
theorem ecbCbcLengths : Obligations.EcbCbcLengths := by
  intro p m s hm hv hdin
  have hunpads := modeUnpads_iff.2 hm
  refine ⟨?_, fun h16 => ?_⟩
  · obtain ⟨t, hexec, hcompleted⟩ := execWith_enc_completed (p := p) hv hdin
    have hlen : (encBlocks p m (s.engine m) s.din).flatten.length = 16 * ((s.din.length + 15) / 16) :=
      encBlocks_flatten_length hunpads State.engine_iv_length
    exact ⟨t, _, hexec, hcompleted.dout, hlen, by omega, fun _ => by omega, fun _ => by omega, by omega⟩
  · obtain ⟨ts, last, t, hraw, hexec, -, hcompleted⟩ := execWith_dec_completed (p := p) hunpads hv hdin h16
    exact ⟨t, _, hexec, hcompleted.dout, unpadded_flatten_length hunpads State.engine_iv_length h16 hraw⟩

/-! ### Equal blocks -/

/-- A ciphertext block of ECB is `E` of the prepared block at its place, whatever stands elsewhere in the message (R174). -/
theorem execWith_encEcb_block (hv : s.ecb.valid = true) (hprep : prep s.din = .ok bs) (hb : bs[i]? = some b)
    (hexec : execWith p .encEcb s = .next t) :
    Memory.readBytes t.obuf (16 * i) 16 = some (p.enc s.ecb.primKey b).toList := by
  obtain ⟨hne, rfl⟩ := prep_ok hprep
  obtain ⟨t', hexec', hcompleted⟩ := execWith_enc_completed (p := p) (m := .ecb) hv hne
  cases hexec.symm.trans hexec'
  refine hcompleted.readBytes_block (fun _ => length_of_mem_encBlocks rfl State.engine_iv_length) ?_
  rw [encBlocks, List.getElem?_map, hb]
  rfl

/-- Settles O37: each of the two ciphertext blocks is `E` of the plaintext block, under the same key. -/
theorem ecbDeterminism : Obligations.EcbDeterminism := by
  intro p s s' t t' bs bs' i j b hv hecb hprep hprep' hb hb' hexec hexec'
  have hblock := execWith_encEcb_block hv hprep hb hexec
  have hblock' := execWith_encEcb_block (hecb ▸ hv) hprep' hb' hexec'
  exact ⟨hblock, by rw [hblock, hblock', hecb]⟩

/-! ### The round trip -/

/-- The key of a context that holds `KLEN` bytes has 16, 24 or 32 (R21, R29). -/
theorem KeyContext.primKey_length {c : KeyContext} (h : c.key.length = c.klen.bytes) :
    c.primKey.length = 16 ∨ c.primKey.length = 24 ∨ c.primKey.length = 32 := by
  rw [KeyContext.primKey, List.length_take, h, Nat.min_self]
  cases c.klen
  · exact .inl rfl
  · exact .inr (.inl rfl)
  · exact .inr (.inr rfl)

/-- Where the raw blocks of `DEC` are the blocks that `ENC` prepared, decryption gives the plaintext back exactly if it is
unaligned or `UNPAD` rejects its last 16 bytes, and takes the padding-like tail off otherwise (R175, R196). -/
theorem execWith_roundTrip (hm : modeUnpads m = true) (hv : (s.context m).valid = true) (hdin : s.din ≠ [])
    (hinv : rawDecBlocks p m (s.engine m) (encOut p m (s.engine m) s.din) = prepBlocks s.din) :
    ∃ t c, execWith p (Instr.of .enc m) s = .next t ∧ t.dout = some c ∧
      ∀ s' : State, s'.context m = s.context m → s'.engine m = s.engine m → s'.din = c →
        ∃ t' q, execWith p (Instr.of .dec m) s' = .next t' ∧ t'.st = .done ∧ t'.dout = some q ∧
          (q = s.din ↔ s.din.length % 16 ≠ 0 ∨ unpad (s.din.drop (s.din.length - 16)) = .error .paddingError) ∧
          ∀ x, s.din.length % 16 = 0 → unpad (s.din.drop (s.din.length - 16)) = .ok x →
            q = s.din.take (s.din.length - 16) ++ x := by
  obtain ⟨t, hexec, hcompleted⟩ := execWith_enc_completed (p := p) hv hdin
  refine ⟨t, _, hexec, hcompleted.dout, fun s' hcontext hengine hdin' => ?_⟩
  have hlen : s'.din.length = 16 * blockCount s.din.length := by
    rw [hdin', encBlocks_flatten_length hm State.engine_iv_length]
  have hpos := blockCount_pos (len := s.din.length) (by simpa using hdin)
  have hne : s'.din ≠ [] := by
    intro hnil
    rw [hnil, List.length_nil] at hlen
    omega
  obtain ⟨ts, last, t', hraw, hexec', -, hcompleted'⟩ :=
    execWith_dec_completed (p := p) hm (hcontext ▸ hv) hne (by omega)
  have hprep : ts ++ [last] = prepBlocks s.din := by rw [← hinv, ← hraw, hengine, hdin', encOut]
  rw [← unpadLast_concat, hprep] at hcompleted'
  refine ⟨t', _, hexec', hcompleted'.st, hcompleted'.dout, unpadLast_prepBlocks_eq_iff hdin, fun x h16 hx => ?_⟩
  rw [unpadLast_prepBlocks_aligned hdin h16, unpadOrRaw_of_ok hx]

/-- `D` undoes `E` block by block (P3 of R8), so the raw blocks of `DEC.ECB` are the prepared ones (R175). -/
theorem rawDecBlocks_ecb_encOut (hp : p.Inverts) (hkey : e.key.length = 16 ∨ e.key.length = 24 ∨ e.key.length = 32) :
    rawDecBlocks p .ecb e (encOut p .ecb e msg) = prepBlocks msg := by
  have hfull : ∀ b ∈ encBlocks p .ecb e msg, b.length = 16 := fun _ => length_of_mem_encBlocks rfl (absurd rfl)
  rw [rawDecBlocks, encOut, chunk_flatten_of_full hfull, encBlocks, List.map_map]
  exact List.map_congr_left (fun b hb => hp _ b hkey (length_of_mem_prepBlocks hb)) |>.trans (List.map_id _)

/-- Settles O38: under P3 the raw blocks of `DEC.ECB` are the prepared ones. -/
theorem ecbRoundTripIff : Obligations.EcbRoundTripIff := by
  intro p hp s hv hkey hdin
  have hinv := rawDecBlocks_ecb_encOut (e := s.engine .ecb) (msg := s.din) hp (KeyContext.primKey_length hkey)
  obtain ⟨t, c, hexec, hdout, hdec⟩ := execWith_roundTrip (m := .ecb) rfl hv hdin hinv
  refine ⟨t, c, hexec, hdout, fun s' hecb hc => hdec s' hecb ?_ hc⟩
  simp only [State.engine, State.context, State.iv, hecb]

end Sys2Proof.Machine

/-! SUPPORT. Chains of block steps that agree, or that undo one another (43_cbc.md R192, R195, R196), and the associative law of
the XOR combiner (40_units.md R126). -/

namespace Sys2Proof.Machine

variable {f g : Bytes → Bytes → Bytes × Bytes} {a b c fb : Bytes} {xs ys : List Bytes} {i : Nat}

/-- The feedback before block `i` depends on the blocks before it alone. -/
theorem chainFb_congr (hi : i ≤ xs.length) (h : ∀ j, j < i → ys[j]? = xs[j]?) :
    chainFb f fb ys i = chainFb f fb xs i := by
  induction i with
  | zero => rw [chainFb_zero, chainFb_zero]
  | succ i ih =>
    have hx : xs[i]? = some xs[i] := List.getElem?_eq_getElem hi
    have hy : ys[i]? = some xs[i] := (h i (by omega)).trans hx
    rw [chainFb_get? hx, chainFb_get? hy, ih (by omega) fun j hj => h j (by omega)]

/-- Where one block step gives back the block that the other was given, and both hand on the same feedback, the one chain undoes
the other; `P` is what the two steps need of the feedback. -/
theorem chain_chain_eq_self (P : Bytes → Prop) (hinv : ∀ fb x, P fb → x ∈ xs → g fb (f fb x).1 = (x, (f fb x).2))
    (hkeep : ∀ fb x, P fb → x ∈ xs → P (f fb x).2) (hfb : P fb) : chain g fb (chain f fb xs) = xs := by
  induction xs generalizing fb with
  | nil => rfl
  | cons x xs ih =>
    have hx : x ∈ x :: xs := List.mem_cons_self
    have hxs (y : Bytes) (hy : y ∈ xs) : y ∈ x :: xs := List.mem_cons_of_mem x hy
    rw [chain, chain, hinv fb x hfb hx,
      ih (fun fb y hP hy => hinv fb y hP (hxs y hy)) (fun fb y hP hy => hkeep fb y hP (hxs y hy)) (hkeep fb x hfb hx)]

/-! ### The XOR combiner -/

theorem xorBytes_assoc (a b c : Bytes) : xorBytes (xorBytes a b) c = xorBytes a (xorBytes b c) := by
  induction a generalizing b c with
  | nil => rfl
  | cons x a ih =>
    cases b with
    | nil => rfl
    | cons y b =>
      cases c with
      | nil => rfl
      | cons z c => exact congrArg₂ List.cons (BitVec.xor_assoc x y z) (ih b c)

theorem xorBytes_right_inj (ha : a.length = c.length) (hb : b.length = c.length) :
    xorBytes a c = xorBytes b c ↔ a = b := by
  refine ⟨fun h => ?_, fun h => by rw [h]⟩
  rw [← xorBytes_xorBytes_cancel ha, h, xorBytes_xorBytes_cancel hb]

theorem xorBytes_left_inj (ha : a.length = c.length) (hb : b.length = c.length) :
    xorBytes c a = xorBytes c b ↔ a = b := by
  rw [xorBytes_comm c a, xorBytes_comm c b, xorBytes_right_inj ha hb]

/-- Exclusive-or with `a ^ b` puts `b` in the place of `a`. -/
theorem xorBytes_replace (h : a.length = c.length) :
    xorBytes (xorBytes a c) (xorBytes a b) = xorBytes b c := by
  rw [xorBytes_comm a c, ← xorBytes_assoc, xorBytes_xorBytes_cancel h.symm, xorBytes_comm]

end Sys2Proof.Machine

/-! The CBC engine (43_cbc.md R190 to R196). EncCbcResult, DecCbcResult, CbcRoundTripIff, CbcDiffusion,
CbcCiphertextBlockReplaced. -/

namespace Sys2Proof.Machine

variable {p : Primitive} {e : Engine} {K fb fb' b b' msg : Bytes} {bs bs' : List Bytes} {s : State} {i j : Nat}

/-! ### The results -/

/-- Settles O17: the output blocks of `ENC.CBC` are the chain of its block step, each of 16 bytes. -/
theorem encCbcResult : Obligations.EncCbcResult := by
  intro s hv hdin
  rw [exec_eq_execWith]
  obtain ⟨t, hexec, hcompleted⟩ := execWith_enc_completed (p := Config.primitive) (m := .cbc) hv hdin
  refine ⟨prepBlocks s.din, t, prep_eq_prepBlocks hdin, hexec, ?_, hcompleted⟩
  rw [hcompleted.olen, encBlocks_flatten_length rfl State.engine_iv_length, prepBlocks_length]

/-- Settles O18: the raw blocks of `DEC.CBC` are the chain of its block step. -/
theorem decCbcResult : Obligations.DecCbcResult := by
  intro s hv hdin h16
  rw [exec_eq_execWith]
  exact execWith_dec_completed (p := Config.primitive) (m := .cbc) rfl hv hdin h16

/-! ### The round trip -/

/-- `D` undoes `E` (P3 of R8), and the feedback is exclusive-ored in twice; both steps hand on the ciphertext block (R192). -/
theorem cbcDecStep_cbcEncStep (hp : p.Inverts) (hkey : K.length = 16 ∨ K.length = 24 ∨ K.length = 32)
    (hfb : fb.length = 16) (hb : b.length = 16) :
    cbcDecStep p K fb (cbcEncStep p K fb b).1 = (b, (cbcEncStep p K fb b).2) := by
  have hlen : (xorBytes fb b).length = 16 := by rw [xorBytes_length, hfb, hb, Nat.min_self]
  have hcancel : xorBytes fb (xorBytes fb b) = b := by
    rw [xorBytes_comm fb, xorBytes_comm fb, xorBytes_xorBytes_cancel (by rw [hb, hfb])]
  rw [cbcDecStep, cbcEncStep, hp K _ hkey hlen, hcancel]

/-- The raw blocks of `DEC.CBC` on what `ENC.CBC` answers are the blocks that `ENC.CBC` prepared (R196). -/
theorem rawDecBlocks_cbc_encOut (hp : p.Inverts) (hkey : e.key.length = 16 ∨ e.key.length = 24 ∨ e.key.length = 32)
    (hiv : e.iv.length = 16) : rawDecBlocks p .cbc e (encOut p .cbc e msg) = prepBlocks msg := by
  have hfull : ∀ b ∈ encBlocks p .cbc e msg, b.length = 16 := fun _ => length_of_mem_encBlocks rfl fun _ => hiv
  rw [rawDecBlocks, encOut, chunk_flatten_of_full hfull, encBlocks]
  exact chain_chain_eq_self (fun fb => fb.length = 16)
    (fun _ _ hfb hb => cbcDecStep_cbcEncStep hp hkey hfb (length_of_mem_prepBlocks hb))
    (fun _ _ _ _ => Vector.length_toList) hiv

/-- Settles O39: under P3 the raw blocks of `DEC.CBC` are the prepared ones, as in ECB. -/
theorem cbcRoundTripIff : Obligations.CbcRoundTripIff := by
  intro p hp s hv hkey hdin
  have hinv := rawDecBlocks_cbc_encOut (e := s.engine .cbc) (msg := s.din) hp (KeyContext.primKey_length hkey)
    (State.engine_iv_length nofun)
  obtain ⟨t, c, hexec, hdout, hdec⟩ := execWith_roundTrip (m := .cbc) rfl hv hdin hinv
  refine ⟨t, c, hexec, hdout, fun s' hcbc hc => hdec s' ?_ ?_ hc⟩
  · rw [State.context, State.context, hcbc]
  · simp only [State.engine, State.context, State.iv, hcbc]

/-! ### Diffusion -/

/-- In CBC encryption the feedback after a block is its ciphertext block (R190). -/
theorem chain_cbcEncStep_get? (h : i < bs.length) :
    (chain (cbcEncStep p K) fb bs)[i]? = some (chainFb (cbcEncStep p K) fb bs (i + 1)) := by
  have hb : bs[i]? = some bs[i] := List.getElem?_eq_getElem h
  rw [chain_get? hb, chainFb_get? hb]
  rfl

theorem chainFb_cbcEncStep_length (hfb : fb.length = 16) (h : i ≤ bs.length) :
    (chainFb (cbcEncStep p K) fb bs i).length = 16 := by
  cases i with
  | zero => rw [chainFb_zero, hfb]
  | succ i =>
    rw [chainFb_succ _ _ _ _ h]
    exact Vector.length_toList

/-- Under P4 the block step of CBC encryption hands on different blocks where it sends different ones to `E` (R192). -/
theorem cbcEncStep_ne (hp : p.EncInjective) (hkey : K.length = 16 ∨ K.length = 24 ∨ K.length = 32)
    (hfb : fb.length = 16) (hb : b.length = 16) (hfb' : fb'.length = 16) (hb' : b'.length = 16)
    (hne : xorBytes fb' b' ≠ xorBytes fb b) : (cbcEncStep p K fb' b').2 ≠ (cbcEncStep p K fb b).2 := by
  have hlen : (xorBytes fb b).length = 16 := by rw [xorBytes_length, hfb, hb, Nat.min_self]
  have hlen' : (xorBytes fb' b').length = 16 := by rw [xorBytes_length, hfb', hb', Nat.min_self]
  exact fun heq => hne (hp K _ _ hkey hlen' hlen (Vector.toList_inj.1 heq))

/-- Under P4 a difference in block `i` alone is in the feedback after block `i` and after every later one (R195): at `i` the
feedback is the same and the blocks differ, later it is the other way round. -/
theorem chainFb_cbcEncStep_ne (hp : p.EncInjective) (hkey : K.length = 16 ∨ K.length = 24 ∨ K.length = 32)
    (hfb : fb.length = 16) (hfull : ∀ b ∈ bs, b.length = 16) (hfull' : ∀ b ∈ bs', b.length = 16)
    (hlen : bs'.length = bs.length) (heq : ∀ k, k ≠ i → bs'[k]? = bs[k]?) (hne : bs'[i]? ≠ bs[i]?)
    (hij : i ≤ j) (hj : j < bs.length) :
    chainFb (cbcEncStep p K) fb bs' (j + 1) ≠ chainFb (cbcEncStep p K) fb bs (j + 1) := by
  induction j, hij using Nat.le_induction with
  | base =>
    have hj' : i < bs'.length := by omega
    have hb := hfull _ (List.getElem_mem hj)
    have hb' := hfull' _ (List.getElem_mem hj')
    have hprev := chainFb_cbcEncStep_length (p := p) (K := K) hfb hj.le
    have hsame : chainFb (cbcEncStep p K) fb bs' i = chainFb (cbcEncStep p K) fb bs i :=
      chainFb_congr hj.le fun k hk => heq k (by omega)
    rw [List.getElem?_eq_getElem hj, List.getElem?_eq_getElem hj', ne_eq, Option.some.injEq] at hne
    rw [chainFb_succ _ _ _ _ hj, chainFb_succ _ _ _ _ hj', hsame]
    refine cbcEncStep_ne hp hkey hprev hb hprev hb' ?_
    rwa [ne_eq, xorBytes_left_inj (by rw [hb', hprev]) (by rw [hb, hprev])]
  | succ j hij ih =>
    have hb := List.getElem?_eq_getElem hj
    have hb' := (heq (j + 1) (by omega)).trans hb
    have hblock := hfull _ (List.getElem_mem hj)
    have hprev := chainFb_cbcEncStep_length (p := p) (K := K) hfb hj.le
    have hprev' := chainFb_cbcEncStep_length (p := p) (K := K) (bs := bs') hfb (show j + 1 ≤ bs'.length by omega)
    rw [chainFb_get? hb, chainFb_get? hb']
    refine cbcEncStep_ne hp hkey hprev hblock hprev' hblock ?_
    rw [ne_eq, xorBytes_right_inj (by rw [hprev', hblock]) (by rw [hprev, hblock])]
    exact ih (by omega)

/-- Ciphertext block `j` stands in `OBUF` at `16*j` (R26, R190). -/
theorem execWith_encCbc_blocks (hv : s.cbc.valid = true) (hprep : prep s.din = .ok bs) :
    ∃ t, execWith p .encCbc s = .next t ∧ ∀ j, j < bs.length → Memory.readBytes t.obuf (16 * j) 16 =
      some (chainFb (cbcEncStep p s.cbc.primKey) s.cbc.iv.toList bs (j + 1)) := by
  obtain ⟨hne, rfl⟩ := prep_ok hprep
  obtain ⟨t, hexec, hcompleted⟩ := execWith_enc_completed (p := p) (m := .cbc) hv hne
  refine ⟨t, hexec, fun j hj => hcompleted.readBytes_block (fun _ => ?_) (chain_cbcEncStep_get? hj)⟩
  exact length_of_mem_encBlocks rfl State.engine_iv_length

/-- Settles O43: the feedback before block `i` is that of the blocks before it, and the difference is in the feedback from
there on. -/
theorem cbcDiffusion : Obligations.CbcDiffusion := by
  intro p hp s s' bs bs' i hv hkey hcbc hprep hprep' hlen hi heq hne
  obtain ⟨t, hexec, hread⟩ := execWith_encCbc_blocks (p := p) hv hprep
  obtain ⟨t', hexec', hread'⟩ := execWith_encCbc_blocks (p := p) (hcbc ▸ hv) hprep'
  rw [hcbc] at hread'
  have hfull : ∀ b ∈ bs, b.length = 16 := (prep_ok hprep).2 ▸ fun _ => length_of_mem_prepBlocks
  have hfull' : ∀ b ∈ bs', b.length = 16 := (prep_ok hprep').2 ▸ fun _ => length_of_mem_prepBlocks
  refine ⟨t, t', hexec, hexec', fun j hj => ?_, fun j hij hj => ?_⟩
  · rw [hread j (by omega), hread' j (by omega),
      chainFb_congr (show j + 1 ≤ bs.length by omega) fun k hk => heq k (by omega)]
  · rw [hread j hj, hread' j (by omega), ne_eq, Option.some.injEq]
    exact chainFb_cbcEncStep_ne hp (KeyContext.primKey_length hkey) Vector.length_toList hfull hfull' hlen heq hne hij hj

/-! ### A ciphertext block replaced -/

/-- The block before block `i` is all that its feedback depends on in CBC decryption (R193). -/
theorem inputBefore_congr (iv : Bytes) (h : ∀ j, j + 1 = i → bs'[j]? = bs[j]?) :
    inputBefore iv bs' i = inputBefore iv bs i := by
  cases i with
  | zero => rfl
  | succ i => rw [inputBefore, inputBefore, List.getD_eq_getElem?_getD, List.getD_eq_getElem?_getD, h i rfl]

/-- Raw output block `j` of `DEC.CBC`, by its own ciphertext block and the one before (R191, R193). -/
theorem rawDecBlocks_cbc_getElem? (p : Primitive) (e : Engine) (msg : Bytes) (j : Nat) :
    (rawDecBlocks p .cbc e msg)[j]? =
      (chunk msg)[j]?.map fun x => xorBytes (inputBefore e.iv (chunk msg) j) (p.dec e.key x).toList := by
  cases hx : (chunk msg)[j]? with
  | none =>
    rw [List.getElem?_eq_none_iff] at hx
    rw [Option.map_none, List.getElem?_eq_none_iff, rawDecBlocks, chain_length]
    exact hx
  | some x =>
    have hj : j < blockCount msg.length := by
      rw [← chunk_length]
      exact (List.getElem?_eq_some_iff.1 hx).1
    rw [Option.map_some, ← feedbackAt_inputBefore (p := p) (.inl rfl) hj]
    exact chain_get? hx

/-- Settles O44: a raw output block depends on its own ciphertext block and on the one before, and the latter is only
exclusive-ored in. -/
theorem cbcCiphertextBlockReplaced : Obligations.CbcCiphertextBlockReplaced := by
  intro p e c c' i x x' _ h16 _ _ hx hx' heq
  obtain ⟨-, hblocks, -⟩ := chunkIdempotence c (c.length / 16) (by omega)
  have hfull : x.length = 16 := hblocks x (List.mem_of_getElem? hx)
  refine ⟨?_, fun y hy => ?_, fun j hj hj' => ?_⟩
  · rw [rawDecBlocks_cbc_getElem?, hx', inputBefore_congr e.iv fun j hj => heq j (by omega), Option.map_some]
  · rw [rawDecBlocks_cbc_getElem?, Option.map_eq_some_iff] at hy
    obtain ⟨z, hz, rfl⟩ := hy
    rw [rawDecBlocks_cbc_getElem?, heq (i + 1) (by omega), hz, Option.map_some]
    simp only [inputBefore, List.getD_eq_getElem?_getD, hx, hx', Option.getD_some]
    rw [xorBytes_replace (by rw [hfull, Vector.length_toList])]
  · rw [rawDecBlocks_cbc_getElem?, rawDecBlocks_cbc_getElem?, heq j hj,
      inputBefore_congr e.iv fun k hk => heq k (by omega)]

end Sys2Proof.Machine

/-! SUPPORT. The three modes that pad nothing, CFB, OFB and CTR (44_cfb.md R210 to R214, 45_ofb.md R230 to R235, 46_ctr.md R250
to R254): the lengths of their blocks, how their `ENC` and `DEC` complete, and why the one undoes the other. -/

namespace Sys2Proof.Machine

variable {p : Primitive} {op : Op} {m : Mode} {e : Engine} {K fb x msg buf : Bytes} {bs : List Bytes} {s : State}

/-! ### Lists of blocks cut like a message -/

/-- Where the chunker cuts depends on the length alone (R120). -/
theorem chunk_map_length_congr (h : buf.length = msg.length) :
    (chunk buf).map List.length = (chunk msg).map List.length := by
  simp [chunk, h]

theorem flatten_length_of_map_length (h : bs.map List.length = (chunk msg).map List.length) :
    bs.flatten.length = msg.length := by
  rw [List.length_flatten, h, ← List.length_flatten, chunk_flatten]

/-- Blocks as long as those of a message, concatenated, are cut where they were joined (R120). -/
theorem chunk_flatten_of_map_length (h : bs.map List.length = (chunk msg).map List.length) : chunk bs.flatten = bs :=
  List.eq_iff_flatten_eq.2
    ⟨chunk_flatten _, (chunk_map_length_congr (flatten_length_of_map_length h)).trans h.symm⟩

/-- The first 16 bytes of a non-empty message are its first block (R120). -/
theorem chunk_getElem?_zero (h : msg ≠ []) : (chunk msg)[0]? = some (msg.take 16) :=
  chunk_block (blockCount_pos (by simpa using h))

/-! ### The block step -/

/-- The output block is the input block with the keystream of the feedback, in both directions (R212, R232, R252). -/
theorem cmdStep_keystream (hm : modeUnpads m = false) :
    (cmdStep p op m K fb x).1 = xorBytes x (trunc (p.enc K fb) x.length) := by
  cases m with
  | ecb | cbc => cases hm
  | cfb | ofb | ctr => cases op <;> rfl

theorem cmdStep_keystream_length (hm : modeUnpads m = false) (hx : x.length ≤ 16) :
    (cmdStep p op m K fb x).1.length = x.length := by
  rw [cmdStep_keystream hm, xorBytes_length, trunc_length, Nat.min_eq_left hx, Nat.min_self]

/-- The next feedback of `DEC` on a block that `ENC` put out is that of `ENC`: in CFB both are the ciphertext block, in OFB and
CTR neither depends on the block (R212, R232, R252). -/
theorem cmdStep_dec_feedback (hm : modeUnpads m = false) :
    (cmdStep p .dec m K fb (cmdStep p .enc m K fb x).1).2 = (cmdStep p .enc m K fb x).2 := by
  cases m with
  | ecb | cbc => cases hm
  | cfb | ofb | ctr => rfl

/-- The same keystream is exclusive-ored in twice, whatever the primitive (R126, R214, R234, R254). -/
theorem cmdStep_dec_enc (hm : modeUnpads m = false) (hx : x.length ≤ 16) :
    cmdStep p .dec m K fb (cmdStep p .enc m K fb x).1 = (x, (cmdStep p .enc m K fb x).2) := by
  refine Prod.ext ?_ (cmdStep_dec_feedback hm)
  rw [cmdStep_keystream hm, cmdStep_keystream_length hm hx, cmdStep_keystream hm, xorBytes_xorBytes_cancel]
  rw [trunc_length, Nat.min_eq_left hx]

/-! ### The output blocks -/

theorem inputBlocks_keystream (hm : modeUnpads m = false) : inputBlocks op m msg = chunk msg := by
  simp [inputBlocks, pads, hm]

theorem outBlocks_keystream (hm : modeUnpads m = false) : outBlocks p op m e msg = rawBlocks p op m e msg := by
  simp [outBlocks, unpads, hm]

/-- Every output block is as long as the block of the message it comes from (R26). -/
theorem rawBlocks_map_length (hm : modeUnpads m = false) :
    (rawBlocks p op m e msg).map List.length = (chunk msg).map List.length := by
  have hcbc : m = .cbc → e.iv.length = 16 := by rintro rfl; cases hm
  refine List.ext_getElem (by simp) fun i hi hi' => ?_
  have hlt : i < blockCount msg.length := by simpa using hi
  rw [List.getElem_eq_iff, List.getElem?_map, rawBlocks_get? hlt, Option.map_some, rawBlock_length hcbc hlt, hm,
    List.getElem_map, chunk_getElem]
  rfl

theorem rawBlocks_flatten_length (hm : modeUnpads m = false) : (rawBlocks p op m e msg).flatten.length = msg.length :=
  flatten_length_of_map_length (rawBlocks_map_length hm)

theorem rawBlocks_flatten_ne_nil (hm : modeUnpads m = false) (h : msg ≠ []) : (rawBlocks p op m e msg).flatten ≠ [] := by
  rwa [← List.length_pos_iff, rawBlocks_flatten_length hm, List.length_pos_iff]

/-- The first 16 output bytes are those of the message with `E(K, IV)`, whatever the mode and the direction (R235). -/
theorem rawBlocks_flatten_take (hm : modeUnpads m = false) (h : msg ≠ []) :
    (rawBlocks p op m e msg).flatten.take 16 = xorBytes (msg.take 16) (trunc (p.enc e.key e.iv) (msg.take 16).length) := by
  have hin : (inputBlocks op m msg)[0]? = some (msg.take 16) := by
    rw [inputBlocks_keystream hm, chunk_getElem?_zero h]
  have hout := chunk_getElem?_zero (rawBlocks_flatten_ne_nil (p := p) (op := op) (e := e) hm h)
  rw [chunk_flatten_of_map_length (rawBlocks_map_length hm), rawBlocks, chain_get? hin, chainFb_zero,
    cmdStep_keystream hm] at hout
  exact (Option.some.inj hout).symm

/-- `DEC` cuts what `ENC` put out into the same blocks and undoes each of them (R214, R234, R254). -/
theorem rawBlocks_dec_enc (hm : modeUnpads m = false) :
    rawBlocks p .dec m e (rawBlocks p .enc m e msg).flatten = chunk msg := by
  have hshort {b : Bytes} (hb : b ∈ chunk msg) : b.length ≤ 16 := by
    obtain ⟨i, -, rfl⟩ := mem_chunk.1 hb
    exact messageBlock_length_le msg i
  rw [rawBlocks, inputBlocks_keystream hm, chunk_flatten_of_map_length (rawBlocks_map_length hm), rawBlocks,
    inputBlocks_keystream hm]
  exact chain_chain_eq_self (fun _ => True) (fun _ _ _ hx => cmdStep_dec_enc hm (hshort hx)) (fun _ _ _ _ => trivial) trivial

/-! ### The commands -/

/-- An `ENC` or `DEC` that pads nothing completes on every non-empty message, and keeps its length (R210, R211, R230, R250). -/
theorem execWith_keystream_completed (hop : op ≠ .new) (hm : modeUnpads m = false) (hv : (s.context m).valid = true)
    (hdin : s.din ≠ []) :
    ∃ t, execWith p (Instr.of op m) s = .next t ∧ t.olen = s.din.length ∧
      Completed s t (rawBlocks p op m (s.engine m) s.din).flatten := by
  have hc : messageCheck op m s.din.length = none := by
    cases op with
    | new => exact absurd rfl hop
    | enc => exact nonEmptyCheck_none hdin
    | dec => simpa [messageCheck_dec, decCheck, hm] using nonEmptyCheck_none hdin
  obtain ⟨t, hexec, hcompleted⟩ := execWith_succeeded (p := p) hop (by rw [messageError, if_pos hv, hc])
  rw [outBlocks_keystream hm] at hcompleted
  exact ⟨t, hexec, hcompleted.olen.trans (rawBlocks_flatten_length hm), hcompleted⟩

/-- The first 16 output bytes depend on the mode through its key and IV only (R210, R230, R235, R250). -/
theorem execWith_keystream_take (hop : op ≠ .new) (hm : modeUnpads m = false) (hv : (s.context m).valid = true)
    (hdin : s.din ≠ []) :
    ∃ t out, execWith p (Instr.of op m) s = .next t ∧ t.dout = some out ∧
      out.take 16 = xorBytes (s.din.take 16) (trunc (p.enc (s.engine m).key (s.engine m).iv) (s.din.take 16).length) := by
  obtain ⟨t, hexec, -, hcompleted⟩ := execWith_keystream_completed (p := p) hop hm hv hdin
  exact ⟨t, _, hexec, hcompleted.dout, rawBlocks_flatten_take hm hdin⟩

/-- `DEC` gives back every non-empty plaintext that `ENC` took, whatever the primitive, and both keep the length (R214, R234,
R254). -/
theorem execWith_keystream_roundTrip (hm : modeUnpads m = false) (hv : (s.context m).valid = true) (hdin : s.din ≠ []) :
    (∃ t c, execWith p (Instr.of .enc m) s = .next t ∧ t.dout = some c ∧ c.length = s.din.length ∧
      ∀ s' : State, s'.context m = s.context m → s'.engine m = s.engine m → s'.din = c →
        ∃ t', execWith p (Instr.of .dec m) s' = .next t' ∧ t'.dout = some s.din) ∧
    ∃ t q, execWith p (Instr.of .dec m) s = .next t ∧ t.dout = some q ∧ q.length = s.din.length := by
  obtain ⟨t, hexec, -, hcompleted⟩ := execWith_keystream_completed (p := p) (op := .enc) nofun hm hv hdin
  obtain ⟨u, hexec', -, hcompleted'⟩ := execWith_keystream_completed (p := p) (op := .dec) nofun hm hv hdin
  refine ⟨⟨t, _, hexec, hcompleted.dout, rawBlocks_flatten_length hm, fun s' hcontext hengine hdin' => ?_⟩,
    u, _, hexec', hcompleted'.dout, rawBlocks_flatten_length hm⟩
  have hne : s'.din ≠ [] := by rw [hdin']; exact rawBlocks_flatten_ne_nil hm hdin
  obtain ⟨t', hdec, -, hdone⟩ := execWith_keystream_completed (p := p) (op := .dec) nofun hm (hcontext ▸ hv) hne
  rw [hengine, hdin', rawBlocks_dec_enc hm, chunk_flatten] at hdone
  exact ⟨t', hdec, hdone.dout⟩

end Sys2Proof.Machine

/-! The CFB engine (44_cfb.md R210 to R214), and the first block it shares with OFB and CTR. CfbResults, CfbRoundTrip,
FirstBlockAgrees. -/

namespace Sys2Proof.Machine

/-- Settles O19: the output blocks of `ENC.CFB` and `DEC.CFB` are the chains of their block steps over the blocks of the
message. -/
theorem cfbResults : Obligations.CfbResults := by
  intro s hv hdin
  simp only [exec_eq_execWith]
  exact ⟨execWith_keystream_completed (op := .enc) (m := .cfb) nofun rfl hv hdin,
    execWith_keystream_completed (op := .dec) (m := .cfb) nofun rfl hv hdin⟩

/-- Settles O40: in CFB nothing is padded, and both directions make the same keystream from the ciphertext. -/
theorem cfbRoundTrip : Obligations.CfbRoundTrip := by
  intro p s hv hdin
  obtain ⟨⟨t, c, hexec, hdout, hlen, hdec⟩, hkept⟩ := execWith_keystream_roundTrip (p := p) (m := .cfb) rfl hv hdin
  refine ⟨⟨t, c, hexec, hdout, hlen, fun s' hcfb hc => hdec s' ?_ ?_ hc⟩, hkept⟩
  · rw [State.context, State.context, hcfb]
  · simp only [State.engine, State.context, State.iv, hcfb]

/-- Settles O46: in each of the three modes the keystream of the first block is `E(K, IV)`. -/
theorem firstBlockAgrees : Obligations.FirstBlockAgrees := by
  intro p s hv hofb hctr hdin
  have hvOfb : s.ofb.valid = true := by rw [hofb, hv]
  have hvCtr : s.ctr.valid = true := by rw [hctr, hv]
  have hengineOfb : s.engine .ofb = s.engine .cfb := by simp only [State.engine, State.context, State.iv, hofb]
  have hengineCtr : s.engine .ctr = s.engine .cfb := by simp only [State.engine, State.context, State.iv, hctr]
  obtain ⟨t₁, a, hexec₁, hdout₁, ha⟩ := execWith_keystream_take (p := p) (op := .enc) (m := .cfb) nofun rfl hv hdin
  obtain ⟨t₂, b, hexec₂, hdout₂, hb⟩ := execWith_keystream_take (p := p) (op := .enc) (m := .ofb) nofun rfl hvOfb hdin
  obtain ⟨t₃, c, hexec₃, hdout₃, hc⟩ := execWith_keystream_take (p := p) (op := .enc) (m := .ctr) nofun rfl hvCtr hdin
  rw [hengineOfb] at hb
  rw [hengineCtr] at hc
  exact ⟨t₁, t₂, t₃, a, b, c, hexec₁, hexec₂, hexec₃, hdout₁, hdout₂, hdout₃, ha.trans hb.symm, hb.trans hc.symm⟩

end Sys2Proof.Machine

/-! The OFB engine (45_ofb.md R230 to R235), and OFB and CTR as exclusive-or of the whole message with one keystream (46_ctr.md
R252). OfbResults, OfbRoundTrip, KeystreamModes. -/

namespace Sys2Proof.Machine

variable {p : Primitive} {op : Op} {m : Mode} {e : Engine} {msg : Bytes} {s : State} {i n : Nat}

/-! ### The XOR combiner on strings of unequal length -/

/-- Bytes of the second string beyond the first meet no lane, so truncating them (R127) changes nothing. -/
theorem xorBytes_take_right (a b : Bytes) : xorBytes a (b.take a.length) = xorBytes a b := by
  have hle : (xorBytes a b).length ≤ a.length := by rw [xorBytes_length]; exact Nat.min_le_left ..
  calc xorBytes a (b.take a.length)
      = xorBytes (a.take a.length) (b.take a.length) := by rw [List.take_length]
    _ = (xorBytes a b).take a.length := List.take_zipWith.symm
    _ = xorBytes a b := List.take_of_length_le hle

theorem xorBytes_take_left (a b : Bytes) : xorBytes (a.take b.length) b = xorBytes a b := by
  rw [xorBytes_comm, xorBytes_take_right, xorBytes_comm]

theorem xorBytes_trunc (a : Bytes) (ks : Block) : xorBytes a (trunc ks a.length) = xorBytes a ks.toList :=
  xorBytes_take_right a ks.toList

/-- A keystream in two parts meets the message in two parts. -/
theorem xorBytes_append_right (a b c : Bytes) :
    xorBytes a (b ++ c) = xorBytes a b ++ xorBytes (a.drop b.length) c := by
  induction b generalizing a with
  | nil => rw [xorBytes, xorBytes, List.zipWith_nil_right]; rfl
  | cons y b ih =>
    cases a with
    | nil => rfl
    | cons x a => exact congrArg (List.cons (x ^^^ y)) (ih a)

/-! ### The keystream of a whole message -/

/-- The keystream over the first `n` blocks: the primitive's answers to the feedback values, in full, one after the other. -/
def keystream (p : Primitive) (op : Op) (m : Mode) (e : Engine) (msg : Bytes) (n : Nat) : Bytes :=
  ((List.range n).map fun i => (p.enc e.key (feedbackAt p op m e msg i)).toList).flatten

theorem keystream_succ : keystream p op m e msg (n + 1) =
    keystream p op m e msg n ++ (p.enc e.key (feedbackAt p op m e msg n)).toList := by
  simp [keystream, List.range_succ]

theorem keystream_length : (keystream p op m e msg n).length = 16 * n := by
  induction n with
  | zero => rfl
  | succ n ih => rw [keystream_succ, List.length_append, ih, Vector.length_toList, Nat.mul_succ]

/-- The keystream does not depend on the message where the feedback values do not. -/
theorem keystream_eq_of_answers {g : Nat → Bytes} (hg : ∀ i < n, (p.enc e.key (feedbackAt p op m e msg i)).toList = g i) :
    keystream p op m e msg n = ((List.range n).map g).flatten :=
  congrArg List.flatten (List.map_congr_left fun i hi => hg i (List.mem_range.1 hi))

/-- Output block `i` is the message from its offset on with the whole answer of the primitive, 16 bytes at most. -/
theorem rawBlock_keystream (hm : modeUnpads m = false) : rawBlock p op m e msg i =
    xorBytes (msg.drop (16 * i)) (p.enc e.key (feedbackAt p op m e msg i)).toList := by
  have hin : inputBlock op m msg i = messageBlock msg i := by simp [inputBlock, pads, hm]
  rw [rawBlock, cmdStep_keystream hm, xorBytes_trunc, hin, ← xorBytes_take_left (msg.drop _), Vector.length_toList]
  rfl

theorem rawBlocks_eq_map : rawBlocks p op m e msg = (List.range (blockCount msg.length)).map (rawBlock p op m e msg) := by
  refine List.ext_getElem (by simp) fun i hi hi' => ?_
  rw [List.getElem_eq_iff, rawBlocks_get? (by simpa using hi), List.getElem_map, List.getElem_range]

theorem rawBlock_flatten_keystream (hm : modeUnpads m = false) :
    ((List.range n).map (rawBlock p op m e msg)).flatten = xorBytes msg (keystream p op m e msg n) := by
  induction n with
  | zero => exact List.zipWith_nil_right.symm
  | succ n ih =>
    rw [List.range_succ, List.map_append, List.flatten_append, ih, keystream_succ, xorBytes_append_right, keystream_length,
      List.map_singleton, List.flatten_singleton, rawBlock_keystream hm]

/-- The output of a mode that pads nothing is the message with the keystream (R210 to R212, R230 to R232, R250 to R252). -/
theorem rawBlocks_flatten_keystream (hm : modeUnpads m = false) : (rawBlocks p op m e msg).flatten =
    xorBytes msg (keystream p op m e msg (blockCount msg.length)) := by
  rw [rawBlocks_eq_map, rawBlock_flatten_keystream hm]

/-- In OFB the keystream is `E` applied again and again to the IV (R230, R233). -/
theorem keystream_ofb : keystream p op .ofb e msg (blockCount msg.length) =
    ((List.range (blockCount msg.length)).map (ofbKeystream p e.key e.iv)).flatten :=
  keystream_eq_of_answers fun _ hi => enc_feedbackAt_ofb hi

/-- In CTR the keystream is `E` of the counter blocks (R250, R252). -/
theorem keystream_ctr (hiv : e.iv.length = 16) : keystream p op .ctr e msg (blockCount msg.length) =
    ((List.range (blockCount msg.length)).map fun i => (p.enc e.key (counterBlock e.iv i)).toList).flatten :=
  keystream_eq_of_answers fun _ hi => by rw [feedbackAt_counterBlock hiv hi]

/-- An `ENC` or `DEC` that pads nothing answers with the message and its keystream, exclusive-ored. -/
theorem execWith_keystream_dout (hop : op ≠ .new) (hm : modeUnpads m = false) (hv : (s.context m).valid = true)
    (hdin : s.din ≠ []) : ∃ t, execWith p (Instr.of op m) s = .next t ∧
      t.dout = some (xorBytes s.din (keystream p op m (s.engine m) s.din (blockCount s.din.length))) := by
  obtain ⟨t, hexec, -, hcompleted⟩ := execWith_keystream_completed (p := p) hop hm hv hdin
  exact ⟨t, hexec, by rw [hcompleted.dout, rawBlocks_flatten_keystream hm]⟩

/-! ### The obligations -/

/-- Settles O20: in both directions the output blocks are the chain of `ofb_step` over the blocks of the message. -/
theorem ofbResults : Obligations.OfbResults := by
  intro s hv hdin
  simp only [exec_eq_execWith]
  exact ⟨execWith_keystream_completed (op := .enc) (m := .ofb) nofun rfl hv hdin,
    execWith_keystream_completed (op := .dec) (m := .ofb) nofun rfl hv hdin⟩

/-- Settles O41: in OFB nothing is padded, and both directions make the same keystream from the IV. -/
theorem ofbRoundTrip : Obligations.OfbRoundTrip := by
  intro p s hv hdin
  obtain ⟨⟨t, c, hexec, hdout, hlen, hdec⟩, hkept⟩ := execWith_keystream_roundTrip (p := p) (m := .ofb) rfl hv hdin
  refine ⟨⟨t, c, hexec, hdout, hlen, fun s' hofb hc => hdec s' ?_ ?_ hc⟩, hkept⟩
  · rw [State.context, State.context, hofb]
  · simp only [State.engine, State.context, State.iv, hofb]

/-- Settles O45: the output is the message with the keystream of the feedback values, which in OFB and CTR come from the key and
the IV alone. -/
theorem keystreamModes : Obligations.KeystreamModes := by
  intro p d s hd hdin
  have hop : d ≠ .new := by rcases hd with rfl | rfl <;> nofun
  refine ⟨fun hv => ?_, fun hv => ?_⟩
  · obtain ⟨t, hexec, hdout⟩ := execWith_keystream_dout (p := p) (m := .ofb) hop rfl hv hdin
    rw [keystream_ofb] at hdout
    exact ⟨t, hexec, hdout⟩
  · obtain ⟨t, hexec, hdout⟩ := execWith_keystream_dout (p := p) (m := .ctr) hop rfl hv hdin
    rw [keystream_ctr (State.engine_iv_length (m := .ctr) nofun)] at hdout
    exact ⟨t, hexec, hdout⟩

end Sys2Proof.Machine

/-! The CTR engine (46_ctr.md R250 to R254), by the laws that the three modes without padding share. CtrResults,
CtrRoundTrip. -/

namespace Sys2Proof.Machine

/-- A loaded engine is the key and the IV of its context (R29), so equal contexts hold the same engine. -/
theorem State.engine_congr {s t : State} {m : Mode} (hcontext : t.context m = s.context m) (hiv : t.iv m = s.iv m) :
    t.engine m = s.engine m := by
  rw [State.engine, State.engine, hcontext, hiv]

/-- Settles O21: in both directions the output blocks are the chain of `ctr_step` over the blocks of the message. -/
theorem ctrResults : Obligations.CtrResults := by
  intro s hv hdin
  rw [exec_eq_execWith]
  exact ⟨execWith_keystream_completed (op := .enc) (m := .ctr) nofun rfl hv hdin,
    execWith_keystream_completed (op := .dec) (m := .ctr) nofun rfl hv hdin⟩

/-- Settles O42: in CTR nothing is padded, and both directions make the same keystream from the counter blocks. -/
theorem ctrRoundTrip : Obligations.CtrRoundTrip := by
  intro p s hv hdin
  obtain ⟨⟨t, c, hexec, hdout, hlen, hdec⟩, hkept⟩ := execWith_keystream_roundTrip (p := p) (m := .ctr) rfl hv hdin
  refine ⟨⟨t, c, hexec, hdout, hlen, fun s' hctr hc => ?_⟩, hkept⟩
  have hcontext : s'.context .ctr = s.context .ctr := by rw [State.context, State.context, hctr]
  have hiv : s'.iv .ctr = s.iv .ctr := by rw [State.iv, State.iv, hctr]
  exact hdec s' hcontext (State.engine_congr hcontext hiv) hc

end Sys2Proof.Machine

/-! Errors and their priority (60_exceptions.md R271 to R285), and the step that nothing is presented to. StepIdlesWithoutRequest,
NoEngineFails, EmptyMessageFails, UnalignedCiphertextFails, FirstErrorIsReported, ErrorTable. -/

namespace Sys2Proof.Machine

variable {op : Op} {m : Mode} {i : Instr} {e : ErrName} {x : Option ErrName} {s t : State} {r : Request}
  {rest : List Request}

/-! ### The step -/

/-- Settles O6: a step looks at the stream first. -/
theorem stepIdlesWithoutRequest : Obligations.StepIdlesWithoutRequest := by
  intro s hstream
  simp only [step, stepWith, hstream]

/-- A legal word is accepted, runs its command and is released (R28). -/
theorem step_decoded (hstream : s.stream = r :: rest) (hdecode : decode r.word = .ok i)
    (hexec : exec i (s.accept r rest) = .next t) : step s = .next t.releaseWord :=
  (stepRunsDecodedCommand.1 s r rest i hstream hdecode).trans (congrArg completeWord hexec)

/-! ### The error of an `ENC` or `DEC` -/

/-- An `ENC` or `DEC` whose checks raise `e` ends in `e` (R285). -/
theorem exec_failed (hop : i.op ≠ .new) (h : messageError i.op i.mode (s.context i.mode) s.din.length = some e) :
    ∃ t, exec i s = .next t ∧ MessageFailed s t e := by
  rw [exec_eq_execWith]
  simpa only [Instr.of_op_mode] using execWith_failed (p := Config.primitive) hop h

theorem messageError_of_invalid {c : KeyContext} (h : c.valid = false) (len : Nat) :
    messageError op m c len = some .noEngine := by
  simp [messageError, h]

theorem messageError_of_valid {c : KeyContext} (h : c.valid = true) (len : Nat) :
    messageError op m c len = messageCheck op m len := if_pos h

/-- Below one block no non-zero length is a multiple of 16, so `CTCHECK` is two tests (R130, R275). -/
theorem ctCheck_eq (len : Nat) : ctCheck len =
    if len = 0 then some .emptyInput else if len % 16 ≠ 0 then some .invalidCiphertextLength else none := by
  unfold ctCheck
  by_cases h0 : len = 0
  · rw [if_pos h0, if_pos h0]
  · have hshort : (len < 16 ∨ len % 16 ≠ 0) ↔ len % 16 ≠ 0 := by omega
    rw [if_neg h0, if_neg h0, if_congr hshort rfl rfl]

/-- Every length check rejects the empty message, and as `EmptyInput` (R274). -/
theorem messageCheck_zero : messageCheck op m 0 = some .emptyInput := by
  cases op with
  | new | enc => rfl
  | dec => cases m <;> rfl

/-- Settles O22: the context is checked before the message. -/
theorem noEngineFails : Obligations.NoEngineFails := fun _ _ hop hv =>
  exec_failed hop (messageError_of_invalid hv _)

/-- Settles O23: with a valid context the length check is next, and every one rejects length 0. -/
theorem emptyMessageFails : Obligations.EmptyMessageFails := by
  intro i s hop hv hdin
  refine exec_failed hop ?_
  rw [messageError_of_valid hv, hdin, List.length_nil, messageCheck_zero]

/-- Settles O24: the length check of `DEC.ECB` and `DEC.CBC` is `CTCHECK`. -/
theorem unalignedCiphertextFails : Obligations.UnalignedCiphertextFails := by
  intro i s hi hv hdin hlen
  have hop : i.op ≠ .new := by rcases hi with rfl | rfl <;> nofun
  have hcheck : messageCheck i.op i.mode = ctCheck := by rcases hi with rfl | rfl <;> rfl
  have hpos : s.din.length ≠ 0 := by simpa using hdin
  refine exec_failed hop ?_
  rw [messageError_of_valid hv, hcheck, ctCheck, if_neg hpos, if_pos hlen]

/-! ### The priority list (R283) -/

theorem firstError_new : firstError (Instr.of .new m) s =
    if s.keyIn.length ≠ 16 ∧ s.keyIn.length ≠ 24 ∧ s.keyIn.length ≠ 32 then some .invalidKeyLength
    else if m ≠ .ecb ∧ s.ivIn.map List.length ≠ some 16 then some .invalidIVLength
    else none := by
  simp only [firstError, Instr.of_op, Instr.of_mode]

/-- The priority list of an `ENC` or `DEC` is the order of its checks. -/
theorem firstError_message (hop : op ≠ .new) :
    firstError (Instr.of op m) s = messageError op m (s.context m) s.din.length := by
  cases hv : (s.context m).valid with
  | false =>
    rw [messageError_of_invalid hv]
    cases op with
    | new => exact absurd rfl hop
    | enc | dec => simp [firstError, hv]
  | true =>
    rw [messageError_of_valid hv]
    cases op with
    | new => exact absurd rfl hop
    | enc => simp [firstError, hv, messageCheck_enc, nonEmptyCheck]
    | dec => cases m <;> simp [firstError, hv, messageCheck_dec, decCheck, modeUnpads, ctCheck_eq, nonEmptyCheck]

/-- `t` reports `x`: `ERR` is `x`, and `ST` says whether that is an error (R31). -/
structure Reports (t : State) (x : Option ErrName) : Prop where
  err : t.err = x
  st : t.st = if x = none then .done else .error

theorem MessageFailed.reports (h : MessageFailed s t e) : Reports t (some e) := ⟨h.err, h.st⟩

theorem Completed.reports {out : Bytes} (h : Completed s t out) : Reports t none := ⟨h.err, h.st⟩

theorem reports_raise (s : State) (e : ErrName) : Reports (s.raise e) (some e) := ⟨rfl, rfl⟩

theorem reports_succeed {n : Nat} (h : s.err = none) : Reports (s.succeed n) none := ⟨h, rfl⟩

theorem Reports.releaseWord (h : Reports t x) : Reports t.releaseWord x := ⟨h.err, h.st⟩

/-- `NEW.<m>` reports its key before its IV (R156). -/
theorem construct_reports (m : Mode) (s : State) : Reports (s.construct m) (firstError (Instr.of .new m) s) := by
  rw [firstError_new]
  rcases State.construct_cases m s with
    ⟨h, hkey⟩ | ⟨kl, hlen, ⟨rfl, h⟩ | ⟨hm, iv, hiv, h⟩ | ⟨hm, hiv, h⟩⟩
  · rw [h, if_pos hkey]
    exact reports_raise _ _
  all_goals
    have hkey : ¬(s.keyIn.length ≠ 16 ∧ s.keyIn.length ≠ 24 ∧ s.keyIn.length ≠ 32) := by
      cases kl <;> simp [hlen, KeyLen.bytes]
    rw [h, if_neg hkey]
  · rw [if_neg (by simp)]
    exact reports_succeed (by simp [State.install])
  · rw [if_neg (by simp [hiv])]
    exact reports_succeed (by simp [State.install])
  · rw [if_pos ⟨hm, hiv⟩]
    exact reports_raise _ _

/-- Every command reports the first error of the priority list, or success (R283). -/
theorem exec_reports (i : Instr) (s : State) : ∃ t, exec i s = .next t ∧ Reports t (firstError i s) := by
  obtain ⟨op, m, rfl⟩ : ∃ op m, i = Instr.of op m := ⟨_, _, (Instr.of_op_mode i).symm⟩
  rw [exec_eq_execWith]
  by_cases hop : op = .new
  · subst hop
    exact ⟨_, execWith_new _ m s, construct_reports m s⟩
  · rw [firstError_message hop]
    cases hx : messageError op m (s.context m) s.din.length with
    | some e =>
      obtain ⟨t, hexec, hfailed⟩ := execWith_failed (p := Config.primitive) hop hx
      exact ⟨t, hexec, hfailed.reports⟩
    | none =>
      obtain ⟨t, hexec, hcompleted⟩ := execWith_succeeded (p := Config.primitive) hop hx
      exact ⟨t, hexec, hcompleted.reports⟩

/-- The error a step reports for the request `r` that it accepted in state `s`, if any: the whole of R283's list. -/
def requestError (r : Request) (s : State) : Option ErrName :=
  match decode r.word with
  | .error _ => some .illegalCommand
  | .ok i => firstError i s

theorem requestError_illegal (hillegal : ∀ i, decode r.word ≠ .ok i) : requestError r s = some .illegalCommand := by
  cases hdecode : decode r.word with
  | error _ => simp only [requestError, hdecode]
  | ok i => exact absurd hdecode (hillegal i)

theorem requestError_decoded (hdecode : decode r.word = .ok i) : requestError r s = firstError i s := by
  simp only [requestError, hdecode]

/-- A step on a request answers a next state, which reports the first error of the whole list, or success (R283). -/
theorem step_reports (hstream : s.stream = r :: rest) :
    ∃ t, step s = .next t ∧ Reports t (requestError r (s.accept r rest)) := by
  by_cases hlegal : ∃ i, decode r.word = .ok i
  · obtain ⟨i, hdecode⟩ := hlegal
    obtain ⟨t, hexec, hreports⟩ := exec_reports i (s.accept r rest)
    rw [requestError_decoded hdecode]
    exact ⟨_, step_decoded hstream hdecode hexec, hreports.releaseWord⟩
  · have hillegal : ∀ i, decode r.word ≠ .ok i := not_exists.1 hlegal
    rw [requestError_illegal hillegal]
    exact ⟨_, step_illegal hstream hillegal, (reports_raise _ _).releaseWord⟩

theorem Reports.stPort (h : Reports t x) : t.stPort = if x = none then 2 else 3 := by
  rw [State.stPort, h.st]
  cases x <;> rfl

/-- Settles O8: the step reports the first error of its request, and the ports show the codes of what is reported. -/
theorem firstErrorIsReported : Obligations.FirstErrorIsReported := by
  intro s r rest hstream
  obtain ⟨t, hstep, hreports⟩ := step_reports hstream
  have herr := hreports.err
  rw [← herr] at hreports
  refine ⟨t, hstep, herr, hreports.st, hreports.stPort, ?_⟩
  rw [State.errPort]
  cases t.err with
  | none => rfl
  | some e => cases e <;> rfl

/-! ### Which command can report which error (R280) -/

theorem mayReport_new : mayReport (Instr.of .new m) e = true ↔
    e = .invalidKeyLength ∨ m ≠ .ecb ∧ e = .invalidIVLength := by
  cases e <;> simp [mayReport]

theorem mayReport_enc : mayReport (Instr.of .enc m) e = true ↔ e = .noEngine ∨ e = .emptyInput := by
  cases e <;> simp [mayReport]

theorem mayReport_dec : mayReport (Instr.of .dec m) e = true ↔
    e = .noEngine ∨ e = .emptyInput ∨ (m = .ecb ∨ m = .cbc) ∧ e = .invalidCiphertextLength := by
  cases e <;> simp [mayReport]

theorem exists_firstError_new : (∃ s, firstError (Instr.of .new m) s = some e) ↔
    e = .invalidKeyLength ∨ m ≠ .ecb ∧ e = .invalidIVLength := by
  simp only [firstError_new]
  constructor
  · rintro ⟨s, h⟩
    split at h
    · cases h; exact .inl rfl
    split at h
    · next hfail => obtain ⟨hm, -⟩ := hfail; cases h; exact .inr ⟨hm, rfl⟩
    · cases h
  · rintro (rfl | ⟨hm, rfl⟩)
    · exact ⟨State.reset, rfl⟩
    · exact ⟨{ State.reset with keyIn := rep 0 16 }, by simp [hm, State.reset]⟩

/-- A state whose context `m` is `c` and whose message is `d`. -/
def messageState (m : Mode) (c : KeyContext) (d : Bytes) : State := { State.reset.withContext m c with din := d }

theorem messageState_context (m : Mode) (c : KeyContext) (d : Bytes) : (messageState m c d).context m = c := by
  cases m <;> rfl

theorem messageState_din (m : Mode) (c : KeyContext) (d : Bytes) : (messageState m c d).din = d := rfl

/-- What an `ENC` or `DEC` can report: `NoEngine`, and what its length check can raise. -/
theorem exists_firstError_message (hop : op ≠ .new) : (∃ s, firstError (Instr.of op m) s = some e) ↔
    e = .noEngine ∨ ∃ len, messageCheck op m len = some e := by
  simp only [firstError_message hop]
  constructor
  · rintro ⟨s, h⟩
    cases hv : (s.context m).valid with
    | false => rw [messageError_of_invalid hv] at h; cases h; exact .inl rfl
    | true => rw [messageError_of_valid hv] at h; exact .inr ⟨_, h⟩
  · rintro (rfl | ⟨len, h⟩)
    · exact ⟨messageState m KeyContext.reset [], messageError_of_invalid (by rw [messageState_context]; rfl) _⟩
    · refine ⟨messageState m { KeyContext.reset with valid := true } (rep 0 len), ?_⟩
      rwa [messageError_of_valid (by rw [messageState_context]), messageState_din, rep_length]

theorem exists_nonEmptyCheck : (∃ len, nonEmptyCheck len = some e) ↔ e = .emptyInput := by
  constructor
  · rintro ⟨len, h⟩
    unfold nonEmptyCheck at h
    split at h <;> cases h
    rfl
  · rintro rfl
    exact ⟨0, rfl⟩

theorem exists_ctCheck : (∃ len, ctCheck len = some e) ↔ e = .emptyInput ∨ e = .invalidCiphertextLength := by
  constructor
  · rintro ⟨len, h⟩
    unfold ctCheck at h
    split at h
    · cases h; exact .inl rfl
    split at h <;> cases h
    exact .inr rfl
  · rintro (rfl | rfl)
    · exact ⟨0, rfl⟩
    · exact ⟨1, rfl⟩

/-- The table of R280 is what the priority list can answer. -/
theorem mayReport_iff : mayReport i e = true ↔ ∃ s, firstError i s = some e := by
  obtain ⟨op, m, rfl⟩ : ∃ op m, i = Instr.of op m := ⟨_, _, (Instr.of_op_mode i).symm⟩
  cases op with
  | new => rw [mayReport_new, exists_firstError_new]
  | enc => rw [mayReport_enc, exists_firstError_message (op := .enc) nofun, messageCheck_enc, exists_nonEmptyCheck]
  | dec =>
    rw [mayReport_dec, exists_firstError_message (op := .dec) nofun, messageCheck_dec]
    cases m with
    | ecb | cbc => simpa [decCheck, modeUnpads] using or_congr_right exists_ctCheck.symm
    | cfb | ofb | ctr => simpa [decCheck, modeUnpads] using or_congr_right exists_nonEmptyCheck.symm

/-- Settles O9: every command answers, and reports what the priority list answers; an illegal word is at the list's head. -/
theorem errorTable : Obligations.ErrorTable := by
  refine ⟨fun i e => mayReport_iff.trans ⟨?_, ?_⟩, fun s t r rest hstream hillegal hstep => ?_⟩
  · rintro ⟨s, hs⟩
    obtain ⟨t, hexec, hreports⟩ := exec_reports i s
    exact ⟨s, t, hexec, hreports.err.trans hs⟩
  · rintro ⟨s, t, hexec, ht⟩
    obtain ⟨t', hexec', hreports⟩ := exec_reports i s
    cases hexec.symm.trans hexec'
    exact ⟨s, hreports.err.symm.trans ht⟩
  · cases hstep.symm.trans (step_illegal hstream hillegal)
    rfl

end Sys2Proof.Machine

/-! Blocks, runs from reset and the first command (70_reset_and_hazards.md R312, R313, R316). IndependentBlocks,
EnginesAreLastConstructed, FirstCommandAfterReset. -/

namespace Sys2Proof.Machine

/-- Settles O47: the blocks of the chain, each by its index alone (R316). -/
theorem independentBlocks : Obligations.IndependentBlocks := by
  intro p m e msg i _ hiv hi
  refine ⟨fun y hy => ?_, ?_⟩
  · rw [← outBlocks_enc]
    exact outBlocks_enc_get? hiv hi hy
  · rw [← rawBlocks_dec, rawBlocks_get? hi, rawBlock_dec hiv hi]

/-- Settles O58: a run of the whole stream leaves the engines of the last constructions, and reset holds none. -/
theorem enginesAreLastConstructed : Obligations.EnginesAreLastConstructed := by
  intro p bound rs hfits
  obtain ⟨t, hstream, hengines, hrun⟩ :=
    run_leaves_lastNew (p := p) (s := { State.reset with stream := rs }) [] rs hfits (List.append_nil rs).symm
  refine ⟨t, ?_, hstream, fun m => ?_⟩
  · exact (hrun 0).trans (coreWith_run_zero p bound t)
  · rw [hengines, State.reset_engines]

/-- Where no engine is constructed, a request that is no `NEW.<m>` is illegal or finds no engine (R312). -/
theorem requestError_of_not_new {r : Request} {s : State} (hv : ∀ m, (s.context m).valid = false)
    (hnew : ∀ m, requestIsNew r m = false) :
    requestError r s = some .illegalCommand ∨ requestError r s = some .noEngine := by
  by_cases hlegal : ∃ i, decode r.word = .ok i
  · obtain ⟨i, hdecode⟩ := hlegal
    have hop : i.op ≠ .new := by simpa [requestIsNew_of_decode hdecode] using hnew i.mode
    right
    rw [requestError_decoded hdecode, ← Instr.of_op_mode i, firstError_message hop, messageError_of_invalid (hv _)]
  · exact .inl (requestError_illegal (not_exists.1 hlegal))

/-- Settles O50: reset presents nothing and holds no engine. -/
theorem firstCommandAfterReset : Obligations.FirstCommandAfterReset := by
  refine ⟨stepIdlesWithoutRequest _ rfl, fun r => ?_⟩
  obtain ⟨t, hstep, hreports⟩ := step_reports (s := { State.reset with stream := [r] }) rfl
  refine ⟨t, hstep, fun hnew => ?_⟩
  have hv : ∀ m, ((State.accept { State.reset with stream := [r] } r []).context m).valid = false := fun m => by
    cases m <;> rfl
  have herror := requestError_of_not_new hv hnew
  rw [← hreports.err] at herror hreports
  refine ⟨?_, herror⟩
  rcases herror with h | h <;> rw [hreports.st, h] <;> rfl

end Sys2Proof.Machine
